-- ==== Sys2Proof/Word.lean ====
section
/-! DEFINITION. The word types of single_wire_protocol_decoder: a byte of the frame store (10_state.md R26)
and the 16-bit half-words the interpreter assembles from it (20_memory.md R52). -/

namespace Sys2Proof

/-- One byte of the frame store (R26). -/
abbrev Byte := BitVec 8

/-- A 16-bit field or output of the interpreter (R79, R210). -/
abbrev Half := BitVec 16

end Sys2Proof
end

