-- ==== Sys2Proof/Config.lean ====
section
/-! DEFINITION. What an implementation fixes (00_scope.md R6, P1 to P11) and the free values: the levels of the
input ports in a cycle for which no stimulus word is given (40_line_driver.md R107, 93 U7). -/

namespace Sys2Proof.Config

/-- The parameters of R6. P9 and P10 are fixed and stand below. The constraints of R6 are
`Sys2Proof.Machine.ConfigOk`. -/
structure Params where
  /-- P1 CYCLES_PER_US. No rule of the block depends on it; it converts the reference times. -/
  cyclesPerUs : Nat
  /-- P2 T_START. -/
  tStart : Nat
  /-- P3 T_RELEASE. -/
  tRelease : Nat
  /-- P4 T_SAMPLE. -/
  tSample : Nat
  /-- P5 ACK_POLL_MAX. -/
  ackPollMax : Nat
  /-- P6 PHASE_POLL_MAX. -/
  phasePollMax : Nat
  /-- P7 SYNC_STAGES. -/
  syncStages : Nat
  /-- P8 CNT_W. -/
  cntW : Nat
  /-- P11 HUM_DIV10: the value on the port `cfg_hum_div10` in every cycle whose stimulus does not say otherwise. -/
  humDiv10 : Bool
  deriving DecidableEq, Repr

/-- P9 FRAME_BYTES. -/
abbrev frameBytes : Nat := 5

/-- P10 FRAME_BITS. -/
abbrev frameBits : Nat := 40

/-- The test configuration TC of 95_test_vectors.md section 0. P1 is not given there: 1 is a DESIGN CHOICE,
log entry 1. -/
def testConfig : Params where
  cyclesPerUs := 1
  tStart := 3
  tRelease := 2
  tSample := 2
  ackPollMax := 4
  phasePollMax := 6
  syncStages := 0
  cntW := 3
  humDiv10 := false

/-- The test configuration TC2 of 95_test_vectors.md section 0: TC with a two-stage synchroniser. -/
def testConfig2 : Params := { testConfig with syncStages := 2 }

/-- Free value: `rst_n` in cycle k where no stimulus word is given (R5: the host drives it). -/
opaque freeRstN : Nat → Bool

/-- Free value: `start` in cycle k where no stimulus word is given (R5: the host drives it). -/
opaque freeStart : Nat → Bool

/-- Free value: `line_in` in cycle k where no stimulus word is given (R107: "a draw under no law"). -/
opaque freeLineIn : Nat → Bool

end Sys2Proof.Config
end

