-- ==== Sys2Proof/Machine/Configuration.lean ====
section
/-! DEFINITION. The constraints on a configuration (00_scope.md R6, last column, and R7), the counter width P8, the
reference configuration of R6, and the platform's wake requirement that the block does not check (R267). -/

namespace Sys2Proof.Machine

/-- The least width, at least 1, that holds `n`. -/
def leastWidth (n : Nat) : Nat := Nat.log2 n + 1

/-- The largest of the parameters the counter is compared with (P8). -/
def counterMax (p : Config.Params) : Nat :=
  max p.tStart (max p.tRelease (max p.tSample (max p.ackPollMax p.phasePollMax)))

/-- P8: "the least width that holds `max(T_START, T_RELEASE, T_SAMPLE, ACK_POLL_MAX, PHASE_POLL_MAX) - 1`, and at
least 1". -/
def cntWOf (p : Config.Params) : Nat := leastWidth (counterMax p - 1)

/-- The configuration meets every constraint of R6; one that does not "is refused" (R7). -/
abbrev ConfigOk (p : Config.Params) : Prop :=
  1 ≤ p.cyclesPerUs ∧ 1 ≤ p.tStart ∧ 1 ≤ p.tRelease ∧ 1 ≤ p.tSample ∧ 1 ≤ p.ackPollMax ∧ 1 ≤ p.phasePollMax ∧
    p.syncStages ≤ p.tRelease ∧ p.syncStages < p.ackPollMax ∧ p.cntW = cntWOf p

/-- The configuration with the reference values of R6, for the parameters R6 leaves OPEN (P1, P5, P6, P11). -/
def referenceConfig (cyclesPerUs ackPollMax phasePollMax : Nat) (humDiv10 : Bool) : Config.Params :=
  let p : Config.Params :=
    { cyclesPerUs := cyclesPerUs
      tStart := 2000 * cyclesPerUs
      tRelease := 40 * cyclesPerUs
      tSample := 30 * cyclesPerUs
      ackPollMax := ackPollMax
      phasePollMax := phasePollMax
      syncStages := 2
      cntW := 0
      humDiv10 := humDiv10 }
  { p with cntW := cntWOf p }

/-- The configuration of State.reset: R6's values for this hardware, with P7 SYNC_STAGES = 2 (D9) and the reference
times. For the parameters R6 leaves OPEN it takes CYCLES_PER_US = 1, 200 polls for both wait bounds and HUM_DIV10 = 0:
DESIGN CHOICE, log entry 1. -/
def hardwareConfig : Config.Params := referenceConfig 1 200 200 false

/-- R267: the start pulse is long enough for a real sensor to wake. A requirement on the platform, "not a model
constraint" (R7): no operation reads it. -/
abbrev WakesSensor (p : Config.Params) : Prop := 1000 * p.cyclesPerUs ≤ p.tStart

end Sys2Proof.Machine
end

