-- ==== Sys2Proof/Syntax.lean ====
section
/-! DEFINITION. What is decoded: the four decode spaces of spec/opcode_table.json, one constructor of `Instr` per
row of it (30_encoding.md R70 to R76, R84), and the input vector of one cycle (R73). -/

namespace Sys2Proof

/-- The four decode spaces of the opcode table (R70, R84). -/
inductive Fmt where
  /-- Format S, the state code: the operation performed this cycle (R71). -/
  | s
  /-- Format P, the pin-drive code `line_oe ‖ line_out` (R72). -/
  | p
  /-- Format C, the control sub-field `rst_n ‖ start` of the input vector (R74). -/
  | c
  /-- Format G, the configuration bit `cfg_hum_div10` (R76). -/
  | g
  deriving DecidableEq, Repr

/-- One constructor per row of spec/opcode_table.json. A row whose mask leaves bits free carries them: the two
unused rows carry the whole state code, RESET carries the `start` bit it ignores. -/
inductive Instr where
  /-- S 0000, R123. -/
  | idle
  /-- S 0001, R124. -/
  | startPulse
  /-- S 0010, R125. -/
  | releaseLine
  /-- S 0011, R126. -/
  | waitAck
  /-- S 0100, R161. -/
  | ackLow
  /-- S 0101, R162. -/
  | bitWaitLow
  /-- S 0110, R163. -/
  | bitWaitHigh
  /-- S 0111, R164. -/
  | bitDelay
  /-- S 1000, R127. -/
  | done
  /-- S 1001, R128. -/
  | timedOut
  /-- S 101x, R129; `code` is the state code, 10 or 11. -/
  | unused1011 (code : BitVec 4)
  /-- S 11xx, R129; `code` is the state code, 12 to 15. -/
  | unused1215 (code : BitVec 4)
  /-- P 10, R101. -/
  | driveLow
  /-- P 11, R102. -/
  | driveHigh
  /-- P 01, R103. -/
  | release
  /-- C 0x, R260; `start` is the ignored bit. -/
  | reset (start : Bool)
  /-- C 10, R120. -/
  | nop
  /-- C 11, R121 and R122. -/
  | read
  /-- G 0, R202. -/
  | humRaw
  /-- G 1, R203. -/
  | humDiv10
  deriving DecidableEq, Repr

/-- Why the decoder rejects a word. -/
inductive DecodeError where
  /-- Pin code 00 is reserved and never produced (R81). -/
  | reservedPinCode
  /-- The word has a bit above the width of its format (R70). -/
  | tooWide (format : Fmt)
  deriving DecidableEq, Repr

/-- Format I, the input vector of one cycle: `rst_n ‖ start ‖ cfg_hum_div10 ‖ line_in` (R20, R73). -/
structure Input where
  /-- Synchronous reset, active low. -/
  rstN : Bool
  /-- Read request, a level. -/
  start : Bool
  /-- Humidity variant: false is HUM_RAW, true is HUM_DIV10. -/
  cfgHumDiv10 : Bool
  /-- Level of the line, high is true. -/
  lineIn : Bool
  deriving DecidableEq, Repr

end Sys2Proof
end

