-- ==== Sys2Proof/WellFormed.lean ====
section
/-! DEFINITION. Which instructions are well formed: those whose carried code selects their own row of the
opcode table (30_encoding.md R84: `(v & mask) == match`). -/

namespace Sys2Proof

/-- The carried state code of an unused row lies in that row: 1010 under mask 1110, 1100 under mask 1100 (R84). -/
def wellFormed : Instr → Bool
  | .unused1011 code => code &&& 0b1110#4 == 0b1010#4
  | .unused1215 code => code &&& 0b1100#4 == 0b1100#4
  | .idle | .startPulse | .releaseLine | .waitAck | .ackLow | .bitWaitLow | .bitWaitHigh | .bitDelay | .done
  | .timedOut | .driveLow | .driveHigh | .release | .reset _ | .nop | .read | .humRaw | .humDiv10 => true

/-- `wellFormed` as a proposition. -/
abbrev WellFormed (i : Instr) : Prop := wellFormed i = true

end Sys2Proof
end

