-- ==== Sys2Proof/Decode.lean ====
section
/-! DEFINITION. The decoder and the encoder of the four decode spaces S, P, C and G (30_encoding.md R70 to R76, R81,
R84), the opcode table as data, the state codes by name, and formats I and the run-length stimulus words (R73, R83). -/

namespace Sys2Proof

/-! ## State codes (R71) -/

abbrev Code.idle : BitVec 4 := 0
abbrev Code.startPulse : BitVec 4 := 1
abbrev Code.releaseLine : BitVec 4 := 2
abbrev Code.waitAck : BitVec 4 := 3
abbrev Code.ackLow : BitVec 4 := 4
abbrev Code.bitWaitLow : BitVec 4 := 5
abbrev Code.bitWaitHigh : BitVec 4 := 6
abbrev Code.bitDelay : BitVec 4 := 7
abbrev Code.done : BitVec 4 := 8
abbrev Code.timedOut : BitVec 4 := 9

/-! ## Formats S, P, C and G -/

/-- The width in bits of a format (R70). -/
def Fmt.width : Fmt → Nat
  | .s => 4
  | .p => 2
  | .c => 2
  | .g => 1

/-- Format S: the operation of a state code (R71). Every code has one. -/
def decodeState (v : BitVec 4) : Instr :=
  match v.toNat with
  | 0 => .idle
  | 1 => .startPulse
  | 2 => .releaseLine
  | 3 => .waitAck
  | 4 => .ackLow
  | 5 => .bitWaitLow
  | 6 => .bitWaitHigh
  | 7 => .bitDelay
  | 8 => .done
  | 9 => .timedOut
  | 10 | 11 => .unused1011 v
  | _ => .unused1215 v

/-- Format P: the pin operation of a pin-drive code (R72). Code 00 is reserved (R81). -/
def decodePin (v : BitVec 2) : Except DecodeError Instr :=
  match v.toNat with
  | 0 => .error .reservedPinCode
  | 1 => .ok .release
  | 2 => .ok .driveLow
  | _ => .ok .driveHigh

/-- Format C: the host command of `rst_n ‖ start` (R74). -/
def decodeControl (v : BitVec 2) : Instr :=
  match v.toNat with
  | 0 => .reset false
  | 1 => .reset true
  | 2 => .nop
  | _ => .read

/-- Format G: the humidity variant of `cfg_hum_div10` (R76). -/
def decodeVariant (v : BitVec 1) : Instr :=
  match v.toNat with
  | 0 => .humRaw
  | _ => .humDiv10

/-- The decoder, total on every word of every format; a word with a bit above its format's width is rejected. -/
def decode (f : Fmt) (w : Nat) : Except DecodeError Instr :=
  if w < 2 ^ f.width then
    match f with
    | .s => .ok (decodeState (BitVec.ofNat 4 w))
    | .p => decodePin (BitVec.ofNat 2 w)
    | .c => .ok (decodeControl (BitVec.ofNat 2 w))
    | .g => .ok (decodeVariant (BitVec.ofNat 1 w))
  else .error (.tooWide f)

/-- The decode space an instruction belongs to (R84). -/
def formatOf : Instr → Fmt
  | .idle | .startPulse | .releaseLine | .waitAck | .ackLow | .bitWaitLow | .bitWaitHigh | .bitDelay | .done
  | .timedOut | .unused1011 _ | .unused1215 _ => .s
  | .driveLow | .driveHigh | .release => .p
  | .reset _ | .nop | .read => .c
  | .humRaw | .humDiv10 => .g

/-- The encoder: the word of an instruction in its own format (R71, R72, R74, R76). -/
def encode : Instr → Nat
  | .idle => 0b0000
  | .startPulse => 0b0001
  | .releaseLine => 0b0010
  | .waitAck => 0b0011
  | .ackLow => 0b0100
  | .bitWaitLow => 0b0101
  | .bitWaitHigh => 0b0110
  | .bitDelay => 0b0111
  | .done => 0b1000
  | .timedOut => 0b1001
  | .unused1011 code => code.toNat
  | .unused1215 code => code.toNat
  | .driveLow => 0b10
  | .driveHigh => 0b11
  | .release => 0b01
  | .reset start => start.toNat
  | .nop => 0b10
  | .read => 0b11
  | .humRaw => 0b0
  | .humDiv10 => 0b1

/-- The instruction the decoder reads from a word numbered as the opcode table numbers it. The table's four decode
spaces reuse the same small words, and a table word carries no format, so this reads format S, the one that "plays
the part of an opcode" (30_encoding.md, opening). DESIGN CHOICE, log entry 5. -/
def decodeTableWord (nbits w : Nat) : Option Instr :=
  match decode .s (w % 2 ^ nbits) with
  | .ok i => some i
  | .error _ => none

/-! ## The opcode table as data (R84) -/

/-- One row of spec/opcode_table.json: `v` selects the row when `v &&& mask = pattern`. -/
structure Row where
  format : Fmt
  mnemonic : String
  pattern : Nat
  mask : Nat
  deriving DecidableEq, Repr

def rowsS : List Row :=
  [⟨.s, "IDLE", 0b0000, 0b1111⟩, ⟨.s, "START_PULSE", 0b0001, 0b1111⟩, ⟨.s, "RELEASE_LINE", 0b0010, 0b1111⟩,
   ⟨.s, "WAIT_ACK", 0b0011, 0b1111⟩, ⟨.s, "ACK_LOW", 0b0100, 0b1111⟩, ⟨.s, "BIT_WAIT_LOW", 0b0101, 0b1111⟩,
   ⟨.s, "BIT_WAIT_HIGH", 0b0110, 0b1111⟩, ⟨.s, "BIT_DELAY", 0b0111, 0b1111⟩, ⟨.s, "DONE", 0b1000, 0b1111⟩,
   ⟨.s, "TIMED_OUT", 0b1001, 0b1111⟩, ⟨.s, "UNUSED_10_11", 0b1010, 0b1110⟩, ⟨.s, "UNUSED_12_15", 0b1100, 0b1100⟩]

def rowsP : List Row :=
  [⟨.p, "DRIVE_LOW", 0b10, 0b11⟩, ⟨.p, "DRIVE_HIGH", 0b11, 0b11⟩, ⟨.p, "RELEASE", 0b01, 0b11⟩]

def rowsC : List Row :=
  [⟨.c, "RESET", 0b00, 0b10⟩, ⟨.c, "NOP", 0b10, 0b11⟩, ⟨.c, "READ", 0b11, 0b11⟩]

def rowsG : List Row :=
  [⟨.g, "HUM_RAW", 0b0, 0b1⟩, ⟨.g, "HUM_DIV10", 0b1, 0b1⟩]

/-- The rows of one decode space. -/
def rowsOf : Fmt → List Row
  | .s => rowsS
  | .p => rowsP
  | .c => rowsC
  | .g => rowsG

/-- R84: when a word selects a row. -/
abbrev Row.Selects (r : Row) (w : Nat) : Prop := w &&& r.mask = r.pattern

/-- The mnemonic of an instruction's row. -/
def mnemonicOf : Instr → String
  | .idle => "IDLE"
  | .startPulse => "START_PULSE"
  | .releaseLine => "RELEASE_LINE"
  | .waitAck => "WAIT_ACK"
  | .ackLow => "ACK_LOW"
  | .bitWaitLow => "BIT_WAIT_LOW"
  | .bitWaitHigh => "BIT_WAIT_HIGH"
  | .bitDelay => "BIT_DELAY"
  | .done => "DONE"
  | .timedOut => "TIMED_OUT"
  | .unused1011 _ => "UNUSED_10_11"
  | .unused1215 _ => "UNUSED_12_15"
  | .driveLow => "DRIVE_LOW"
  | .driveHigh => "DRIVE_HIGH"
  | .release => "RELEASE"
  | .reset _ => "RESET"
  | .nop => "NOP"
  | .read => "READ"
  | .humRaw => "HUM_RAW"
  | .humDiv10 => "HUM_DIV10"

/-! ## Format I and the stimulus words (R73, R83) -/

/-- Format I: `I[3:0] = rst_n ‖ start ‖ cfg_hum_div10 ‖ line_in` (R73). -/
def Input.ofWord (w : BitVec 4) : Input :=
  { rstN := w.getLsbD 3, start := w.getLsbD 2, cfgHumDiv10 := w.getLsbD 1, lineIn := w.getLsbD 0 }

/-- The format I word of an input vector (R73). -/
def Input.toWord (i : Input) : BitVec 4 :=
  BitVec.ofBool i.rstN ++ BitVec.ofBool i.start ++ BitVec.ofBool i.cfgHumDiv10 ++ BitVec.ofBool i.lineIn

/-- Format C, the control sub-field `C[1:0] = I[3:2]` (R74). -/
def Input.control (i : Input) : BitVec 2 := BitVec.ofBool i.rstN ++ BitVec.ofBool i.start

/-- Format G, the configuration sub-field `I[1]` (R76). -/
def Input.variant (i : Input) : BitVec 1 := BitVec.ofBool i.cfgHumDiv10

/-- A stimulus encoding `word×count …` as the input vectors of consecutive cycles (R73). -/
def stimulusOf : List (BitVec 4 × Nat) → List Input
  | [] => []
  | (w, n) :: rest => List.replicate n (Input.ofWord w) ++ stimulusOf rest

end Sys2Proof
end

