-- ==== Sys2Proof/Machine/State.lean ====
section
/-! DEFINITION. The state of the block: the registers of 10_state.md R23 to R29, the output ports that a table row
writes (R21), the configuration of the run (00_scope.md R6) and the input vectors of the coming cycles (R73). The
reasons a step can stop, the failure causes (R78) and the reset state (70_reset_and_hazards.md R260). -/

namespace Sys2Proof.Machine

/-- Why the machine stops with a fault. -/
inductive Fault where
  /-- The answer of the sample operation when `bit_idx / 8` is 5, 6 or 7: the frame store has only the addresses 0 to 4
  (R50). No instruction raises it: BIT_DELAY is refused first when `bit_idx` is above 39 (R33, U5). Safe. -/
  | noFrameByte
  deriving DecidableEq, Repr

/-- Why the machine gives a step no meaning. -/
inductive Refusal where
  /-- Raised only by an arm of `exec` whose instruction has no meaning yet. No arm is so. Safe. -/
  | notModelled (mnemonic : String)
  /-- Raised by every instruction when the configuration breaks a constraint of R6: R7 says such a configuration "is
  refused: a model has no meaning for it and must not run". Safe. -/
  | badConfiguration
  /-- Raised by the step if the pin code of the new state were 00, which is reserved and "never produced" (R81). The
  P column of R71 has no 00, so no step raises it. Safe. -/
  | reservedPinCode
  /-- Raised by the arm of a used state code (its row, and NOP and READ in that state) in a state that breaks R33, which
  no run reaches: R81 and U5 of 93_implementation_defined.md say "refuse". It covers `status = 11` with
  `err_cause = 0`. Reset and the recovery from unused codes never raise it. Safe: the spec gives no meaning there. -/
  | unreachableState
  deriving DecidableEq, Repr

/-- The three causes a read can time out with (R78, R230). -/
inductive Cause where
  /-- R231. -/
  | ackTimeout
  /-- R232. -/
  | ackEndTimeout
  /-- R233. -/
  | bitTimeout
  deriving DecidableEq, Repr

/-- The frame store: five 8-bit registers `frame[0]` to `frame[4]` (R26, R50). -/
structure Frame where
  b0 : Byte
  b1 : Byte
  b2 : Byte
  b3 : Byte
  b4 : Byte
  deriving DecidableEq, Repr

/-- The all-zero frame: the reset value (R26) and what an accept leaves (R121). -/
def Frame.zero : Frame := ⟨0, 0, 0, 0, 0⟩

/-- The state of the block in one clock cycle. -/
structure State where
  /-- The configuration of the run (R6). It is not state: no step changes it (log entry 1). -/
  cfg : Config.Params
  /-- `state[3:0]`, the code of the operation performed this cycle (R23, R71). -/
  state : BitVec 4
  /-- `cnt`, an unsigned up-counter of CNT_W bits (R24); its value, below `2 ^ cfg.cntW`. -/
  cnt : Nat
  /-- `bit_idx[5:0]`, the index of the bit being received (R25). -/
  bitIdx : BitVec 6
  /-- `frame[0..4]` (R26). -/
  frame : Frame
  /-- `err_cause[1:0]` (R27, R78). -/
  errCause : BitVec 2
  /-- `sync[1..SYNC_STAGES]`, stage 1 first (R28); SYNC_STAGES entries. -/
  sync : List Bool
  /-- Output port `line_oe` in this cycle (R21, R72): written by the P row of the cycle (log entry 4). -/
  lineOe : Bool
  /-- Output port `line_out` in this cycle (R21, R72): written by the P row of the cycle (log entry 4). -/
  lineOut : Bool
  /-- Output port `humidity_o[15:0]` in this cycle (R21): written by the G row of the cycle (log entry 4). -/
  humidityO : Half
  /-- The model's own: the input vectors of this cycle and the next ones, this cycle's first (R73, log entry 2). -/
  stimulus : List Input
  /-- The model's own: the number k of this cycle (R10), which indexes the free values (log entry 2). -/
  cycle : Nat
  deriving DecidableEq, Repr

/-- ResetState (R260) under a configuration, with the outputs of R261 and the given inputs to come. -/
def State.resetWith (c : Config.Params) (stimulus : List Input) : State where
  cfg := c
  state := 0
  cnt := 0
  bitIdx := 0
  frame := Frame.zero
  errCause := 0
  sync := List.replicate c.syncStages true
  lineOe := false
  lineOut := true
  humidityO := 0
  stimulus := stimulus
  cycle := 0

/-- The machine right after reset (R260, R261), under R6's values for this hardware (`hardwareConfig`, log entry 1), with
no input vector given: every input is then a free value (log entry 2). -/
def State.reset : State := State.resetWith hardwareConfig []

/-- The output ports of R21. -/
structure Outputs where
  lineOe : Bool
  lineOut : Bool
  busy : Bool
  status : BitVec 2
  errCause : BitVec 2
  frameO : BitVec 40
  humidityO : Half
  temperatureO : Half
  checksumO : Byte
  checksumValidO : Bool
  stateO : BitVec 4
  bitIdxO : BitVec 6
  deriving DecidableEq, Repr

end Sys2Proof.Machine
end

