-- ==== Sys2Proof/Machine/Operands.lean ====
section
/-! DEFINITION. The operands of the operations: the input vector of the cycle (R73), the synchronised line (R160),
the byte of the frame a bit lands in (R51), the pin code of a state (R71), and the fields and functions the reading
interpreter computes from the frame (R75, R79, R201 to R206). -/

namespace Sys2Proof.Machine

/-! ## Inputs -/

/-- The input vector of the current cycle: the first stimulus word. Where none is given, `rst_n`, `start` and
`line_in` are free values of the cycle (R107) and `cfg_hum_div10` is the configuration's P11 (R6). -/
def State.input (s : State) : Input :=
  match s.stimulus with
  | i :: _ => i
  | [] =>
    { rstN := Config.freeRstN s.cycle
      start := Config.freeStart s.cycle
      cfgHumDiv10 := s.cfg.humDiv10
      lineIn := Config.freeLineIn s.cycle }

/-- `line_s`, the synchronised line value of the current cycle (R160): the last stage of the chain, or `line_in`
itself when the chain is empty. It is also the sampled bit of R104. -/
def State.lineS (s : State) : Bool := s.sync.getLastD s.input.lineIn

/-- The byte index of the bit being received: `bit_idx / 8` (R51, R164). -/
def State.byteIndex (s : State) : Nat := s.bitIdx.toNat / 8

/-! ## The pin code of a state -/

/-- The P column of R71, `line_oe ‖ line_out` for each state code. -/
def pinCode (state : BitVec 4) : BitVec 2 :=
  match state.toNat with
  | 0 => 0b01
  | 1 => 0b10
  | 2 => 0b11
  | 3 => 0b01
  | 4 => 0b01
  | 5 => 0b01
  | 6 => 0b01
  | 7 => 0b01
  | 8 => 0b11
  | 9 => 0b01
  | _ => 0b01

/-! ## The frame -/

/-- Format F: `frame_o = frame[0] ‖ frame[1] ‖ frame[2] ‖ frame[3] ‖ frame[4]` (R53, R75). -/
def frameO (f : Frame) : BitVec 40 := f.b0 ++ f.b1 ++ f.b2 ++ f.b3 ++ f.b4

/-- `rawHumidity = frame[0] << 8 | frame[1]` (R201). -/
def rawHumidity (f : Frame) : Half := f.b0 ++ f.b1

/-- HUM_RAW: the raw humidity, in tenths of a percent (R202). -/
def humidityRaw (f : Frame) : Half := rawHumidity f

/-- HUM_DIV10: the floor of a tenth of the raw humidity, in whole percent (R203). -/
def humidityDiv10 (f : Frame) : Half := BitVec.ofNat 16 ((rawHumidity f).toNat / 10)

/-- `humidity_o` for a value of `cfg_hum_div10` (R76, R211). -/
def humidity (div10 : Bool) (f : Frame) : Half := if div10 then humidityDiv10 f else humidityRaw f

/-- `rawTemperature = frame[2] << 8 | frame[3]` (R204). -/
def rawTemperature (f : Frame) : Half := f.b2 ++ f.b3

/-- `magnitude = rawTemperature & 0x7FFF` (R204). -/
def magnitude (f : Frame) : Half := rawTemperature f &&& 0x7FFF#16

/-- The sign, bit 15 of the temperature half-word (R204). -/
def negative (f : Frame) : Bool := (rawTemperature f).getLsbD 15

/-- `temperatureTenths = negative ? -magnitude : magnitude`, an integer (R205). -/
def temperatureTenths (f : Frame) : Int :=
  if negative f then -((magnitude f).toNat : Int) else ((magnitude f).toNat : Int)

/-- `temperature_o`, the 16-bit two's complement form of the tenths (R205). -/
def temperature (f : Frame) : Half := BitVec.ofInt 16 (temperatureTenths f)

/-- The sum of the first four bytes, before the mask (R206, R210). -/
def byteSum (f : Frame) : Nat := f.b0.toNat + f.b1.toNat + f.b2.toNat + f.b3.toNat

/-- `checksum_o = (frame[0] + frame[1] + frame[2] + frame[3]) & 0xFF` (R206). -/
def checksum (f : Frame) : Byte := BitVec.ofNat 8 (byteSum f)

end Sys2Proof.Machine
end

