-- ==== Sys2Proof/Machine/Flags.lean ====
section
/-! DEFINITION. The status flags (10_state.md R31): `status` and `busy` (R77), the cause codes (R78), and
`checksum_valid_o` (R207); and all output ports of a cycle together (R21, R22). -/

namespace Sys2Proof.Machine

/-- The `status` code of a state code (R71, R77). -/
def statusOf (state : BitVec 4) : BitVec 2 :=
  match state.toNat with
  | 0 => 0b00
  | 1 | 2 | 3 | 4 | 5 | 6 | 7 => 0b01
  | 8 => 0b10
  | 9 => 0b11
  | _ => 0b00

/-- `busy = (status == 01)` (R77). -/
def busyOf (state : BitVec 4) : Bool := statusOf state == 0b01

/-- The `err_cause` code of a cause (R78). -/
def Cause.code : Cause → BitVec 2
  | .ackTimeout => 1
  | .ackEndTimeout => 2
  | .bitTimeout => 3

/-- `checksum_valid_o = (checksum_o == frame[4])` (R207). -/
def checksumValid (f : Frame) : Bool := checksum f == f.b4

/-- The output ports in the current cycle (R21). The three that a table row writes are read from the state, where the
step leaves them settled; the others are computed from the registers (R22). -/
def outputs (s : State) : Outputs where
  lineOe := s.lineOe
  lineOut := s.lineOut
  busy := busyOf s.state
  status := statusOf s.state
  errCause := s.errCause
  frameO := frameO s.frame
  humidityO := s.humidityO
  temperatureO := temperature s.frame
  checksumO := checksum s.frame
  checksumValidO := checksumValid s.frame
  stateO := s.state
  bitIdxO := s.bitIdx

end Sys2Proof.Machine
end

