-- ==== Sys2Proof/Machine/Legal.lean ====
section
/-! DEFINITION. The states that have a meaning (10_state.md R33): R33 leaves a state that breaks it to
93_implementation_defined.md, whose U5 says to refuse it. Each arm checks it, but the recovery from the unused codes
(R129, U3); reset does not (R260: "whatever its state and inputs"). -/

namespace Sys2Proof.Machine

/-- R33: in each state `cnt` is below this bound. -/
def cntBound (p : Config.Params) (state : BitVec 4) : Nat :=
  match state.toNat with
  | 1 => p.tStart
  | 2 => p.tRelease
  | 3 => p.ackPollMax
  | 4 | 5 | 6 => p.phasePollMax
  | 7 => p.tSample
  | _ => 1

/-- R33's n: "40 if state == DONE, else bit_idx". -/
def bitsIn (state : BitVec 4) (bitIdx : BitVec 6) : Nat := if state = Code.done then 40 else bitIdx.toNat

/-- R33: a frame that packs some n received bits: byte k holds at most 8 of them, in its low bits, and is 0 when
`8*k >= n`. -/
abbrev FrameFits (n : Nat) (f : Frame) : Prop :=
  f.b0.toNat < 2 ^ min n 8 ∧ f.b1.toNat < 2 ^ min (n - 8) 8 ∧ f.b2.toNat < 2 ^ min (n - 16) 8 ∧
    f.b3.toNat < 2 ^ min (n - 24) 8 ∧ f.b4.toNat < 2 ^ min (n - 32) 8

/-- R33 for the state code `code` and the registers of `s`. -/
abbrev Legal (code : BitVec 4) (s : State) : Prop :=
  s.cnt < cntBound s.cfg code ∧ s.bitIdx.toNat ≤ 39 ∧ (code.toNat ≤ 4 → s.bitIdx = 0) ∧
    (code = Code.done → s.bitIdx = 39) ∧ (code ≠ Code.timedOut → s.errCause = 0) ∧
    (code = Code.timedOut → s.errCause ≠ 0) ∧ FrameFits (bitsIn code s.bitIdx) s.frame

/-- An arm of the state `code` has its meaning in legal states only (U5). -/
def inLegal (code : BitVec 4) (s : State) (r : Host.Outcome State Fault Refusal) : Host.Outcome State Fault Refusal :=
  if Legal code s then r else .refused .unreachableState

/-- The registers of `s` if R33 allows them in the state `code`, else those of that state with nothing received: a state
that breaks R33 has no meaning (U5), so no operation could run in it. TIMED_OUT gets AckTimeout's cause, 1 (R78). -/
def State.legalFor (s : State) (code : BitVec 4) : State :=
  if Legal code s then s
  else { s with
    cnt := 0, bitIdx := if code = Code.done then 39 else 0, frame := Frame.zero
    errCause := if code = Code.timedOut then 1 else 0 }

end Sys2Proof.Machine
end

