-- ==== Sys2Proof/Machine/Ops.lean ====
section
/-! DEFINITION. The named operations over the state: the frame store (R50), the counter and the change of state (R24,
R130), the accept (R121), the entry into a failure (R238), the fixed delay and the bounded poll the timing states
share, the sample (R164, R165), the synchroniser (R160), reset (R260), the pin and the humidity port; and how the arm
of one state becomes one clock edge (R120). -/

namespace Sys2Proof.Machine

/-! ## The frame store (R50) -/

/-- `MemRead(k, 1)`: byte k of the frame store; there is none beyond 4. -/
def memRead (f : Frame) (k : Nat) : Option Byte :=
  match k with
  | 0 => some f.b0
  | 1 => some f.b1
  | 2 => some f.b2
  | 3 => some f.b3
  | 4 => some f.b4
  | _ => none

/-- `MemWrite(k, 1, v)`: byte k of the frame store becomes v; there is none beyond 4. -/
def memWrite (f : Frame) (k : Nat) (v : Byte) : Option Frame :=
  match k with
  | 0 => some { f with b0 := v }
  | 1 => some { f with b1 := v }
  | 2 => some { f with b2 := v }
  | 3 => some { f with b3 := v }
  | 4 => some { f with b4 := v }
  | _ => none

/-- R165: the byte shifted left by one, with the sampled bit in its bit 0, mod 2^8. -/
def shiftIn (old : Byte) (b : Bool) : Byte := (old <<< 1) ||| (if b then 1#8 else 0#8)

/-! ## Registers -/

/-- `cnt <- 0; state <- code` (R11, R130). -/
def State.goto (s : State) (code : BitVec 4) : State := { s with state := code, cnt := 0 }

/-- `cnt <- cnt + 1`, as an unsigned CNT_W-bit number (R24, R80). -/
def State.countUp (s : State) : State := { s with cnt := (s.cnt + 1) % 2 ^ s.cfg.cntW }

/-- The accept of a read request (R121). -/
def State.accept (s : State) : State :=
  { s with frame := Frame.zero, bitIdx := 0, errCause := 0, cnt := 0, state := Code.startPulse }

/-- Taking an exception: `raise`, the entry into a failed read (R11, R231 to R233, R238). It changes exactly
`err_cause`, `state` and `cnt`. -/
def State.raise (s : State) (c : Cause) : State :=
  { s with errCause := c.code, state := Code.timedOut, cnt := 0 }

/-- A request in IDLE, DONE or TIMED_OUT: accepted, or nothing changes (R123, R127, R128). This is also the only
return from a failure but reset (R239). -/
def State.await (s : State) (start : Bool) : State := if start then s.accept else s

/-- A fixed delay of `len` cycles, after which the state is `code` (R124, R125). -/
def State.hold (s : State) (len : Nat) (code : BitVec 4) : State :=
  if s.cnt = len - 1 then s.goto code else s.countUp

/-- One poll of a bounded wait for the level `awaited` (R126, R161 to R163): detection is tested before the bound. -/
def State.poll (s : State) (awaited : Bool) (bound : Nat) (code : BitVec 4) (c : Cause) : State :=
  if s.lineS = awaited then s.goto code
  else if s.cnt = bound - 1 then s.raise c
  else s.countUp

/-- The sample of BIT_DELAY's last cycle (R164): the line is read once, the bit is packed into its byte (R165), and
the read ends after bit 39. -/
def State.sample (s : State) : Host.Outcome State Fault Refusal :=
  match memRead s.frame s.byteIndex with
  | none => .fault .noFrameByte
  | some old =>
    match memWrite s.frame s.byteIndex (shiftIn old s.lineS) with
    | none => .fault .noFrameByte
    | some f =>
      if s.bitIdx = 39 then .next ({ s with frame := f }.goto Code.done)
      else .next ({ s with frame := f, bitIdx := s.bitIdx + 1 }.goto Code.bitWaitLow)

/-- One shift of the synchroniser chain: `sync[1] <- line_in; sync[j] <- sync[j-1]` (R160). -/
def State.shiftSync (s : State) : State := { s with sync := (s.input.lineIn :: s.sync).dropLast }

/-- ResetState: every register takes its reset value (R260). -/
def State.resetRegs (s : State) : State :=
  { s with
    state := Code.idle, cnt := 0, bitIdx := 0, frame := Frame.zero, errCause := 0
    sync := List.replicate s.cfg.syncStages true }

/-! ## Output ports -/

/-- Drive the pin port (R72, R100). -/
def State.drivePin (s : State) (oe out : Bool) : State := { s with lineOe := oe, lineOut := out }

/-- Drive the humidity port (R21). -/
def State.driveHumidity (s : State) (h : Half) : State := { s with humidityO := h }

/-! ## The cycle -/

/-- The next clock cycle begins: its input vector becomes the current one (R10). -/
def State.nextCycle (s : State) : State := { s with stimulus := s.stimulus.tail, cycle := s.cycle + 1 }

/-- Sequencing: go on from a next state, keep a stop. -/
def andThen (r : Host.Outcome State Fault Refusal) (f : State → Host.Outcome State Fault Refusal) :
    Host.Outcome State Fault Refusal :=
  match r with
  | .next s => f s
  | .fault e => .fault e
  | .refused e => .refused e

/-- R7: under a configuration that breaks R6 nothing has a meaning. -/
def guarded (s : State) (r : Host.Outcome State Fault Refusal) : Host.Outcome State Fault Refusal :=
  if ConfigOk s.cfg then r else .refused .badConfiguration

/-- One clock edge with `rst_n = 1` (R120): the arm of a state, computed from the values of the current cycle, and
the shift of the synchroniser, which happens in every state (R160). -/
def clocked (s : State) (arm : Host.Outcome State Fault Refusal) : Host.Outcome State Fault Refusal :=
  guarded s (andThen arm fun t => .next t.shiftSync)

end Sys2Proof.Machine
end

