-- ==== Sys2Proof/Machine/Sampling.lean ====
section
/-! DEFINITION. The meanings of the bit_sample_synchronizer's rows: ACK_LOW, BIT_WAIT_LOW, BIT_WAIT_HIGH and BIT_DELAY
(42_bit_sample_synchronizer.md R161 to R164). An `arm…` is the pseudocode of the rule in the states that R33 allows; an
`exec…` is that arm at one clock edge (R120). -/

namespace Sys2Proof.Machine

/-- R161. -/
def armAckLow (s : State) : Host.Outcome State Fault Refusal :=
  inLegal Code.ackLow s (.next (s.poll true s.cfg.phasePollMax Code.bitWaitLow .ackEndTimeout))

/-- R162. -/
def armBitWaitLow (s : State) : Host.Outcome State Fault Refusal :=
  inLegal Code.bitWaitLow s (.next (s.poll false s.cfg.phasePollMax Code.bitWaitHigh .bitTimeout))

/-- R163. -/
def armBitWaitHigh (s : State) : Host.Outcome State Fault Refusal :=
  inLegal Code.bitWaitHigh s (.next (s.poll true s.cfg.phasePollMax Code.bitDelay .bitTimeout))

/-- R164: the sample in the last of T_SAMPLE cycles, else the count. -/
def armBitDelay (s : State) : Host.Outcome State Fault Refusal :=
  inLegal Code.bitDelay s (if s.cnt = s.cfg.tSample - 1 then s.sample else .next s.countUp)

/-- ACK_LOW (R161). -/
def execAckLow (s : State) : Host.Outcome State Fault Refusal := clocked s (armAckLow s)

/-- BIT_WAIT_LOW (R162). -/
def execBitWaitLow (s : State) : Host.Outcome State Fault Refusal := clocked s (armBitWaitLow s)

/-- BIT_WAIT_HIGH (R163). -/
def execBitWaitHigh (s : State) : Host.Outcome State Fault Refusal := clocked s (armBitWaitHigh s)

/-- BIT_DELAY (R164). -/
def execBitDelay (s : State) : Host.Outcome State Fault Refusal := clocked s (armBitDelay s)

end Sys2Proof.Machine
end

