-- ==== Sys2Proof/Machine/Timing.lean ====
section
/-! DEFINITION. The meanings of the gpio_timing_state_machine's rows: IDLE, START_PULSE, RELEASE_LINE, WAIT_ACK, DONE,
TIMED_OUT and the unused codes (41_timing_state_machine.md R123 to R129). An `arm…` is the pseudocode of the rule in
the states that R33 allows; an `exec…` is that arm at one clock edge (R120), with `start` taken from the input vector of the cycle. -/

namespace Sys2Proof.Machine

/-- R123. -/
def armIdle (start : Bool) (s : State) : Host.Outcome State Fault Refusal :=
  inLegal Code.idle s (.next (s.await start))

/-- R124. -/
def armStartPulse (s : State) : Host.Outcome State Fault Refusal :=
  inLegal Code.startPulse s (.next (s.hold s.cfg.tStart Code.releaseLine))

/-- R125. -/
def armReleaseLine (s : State) : Host.Outcome State Fault Refusal :=
  inLegal Code.releaseLine s (.next (s.hold s.cfg.tRelease Code.waitAck))

/-- R126. -/
def armWaitAck (s : State) : Host.Outcome State Fault Refusal :=
  inLegal Code.waitAck s (.next (s.poll false s.cfg.ackPollMax Code.ackLow .ackTimeout))

/-- R127. -/
def armDone (start : Bool) (s : State) : Host.Outcome State Fault Refusal :=
  inLegal Code.done s (.next (s.await start))

/-- R128. -/
def armTimedOut (start : Bool) (s : State) : Host.Outcome State Fault Refusal :=
  inLegal Code.timedOut s (.next (s.await start))

/-- R129: `cnt <- 0; state <- IDLE`. -/
def armUnused (s : State) : Host.Outcome State Fault Refusal := .next (s.goto Code.idle)

/-- IDLE (R123). -/
def execIdle (s : State) : Host.Outcome State Fault Refusal := clocked s (armIdle s.input.start s)

/-- START_PULSE (R124). -/
def execStartPulse (s : State) : Host.Outcome State Fault Refusal := clocked s (armStartPulse s)

/-- RELEASE_LINE (R125). -/
def execReleaseLine (s : State) : Host.Outcome State Fault Refusal := clocked s (armReleaseLine s)

/-- WAIT_ACK (R126). -/
def execWaitAck (s : State) : Host.Outcome State Fault Refusal := clocked s (armWaitAck s)

/-- DONE (R127). -/
def execDone (s : State) : Host.Outcome State Fault Refusal := clocked s (armDone s.input.start s)

/-- TIMED_OUT (R128). -/
def execTimedOut (s : State) : Host.Outcome State Fault Refusal := clocked s (armTimedOut s.input.start s)

/-- Unused codes 10 and 11 (R129): recovery to IDLE, whichever of the two the code is. -/
def execUnused1011 (_code : BitVec 4) (s : State) : Host.Outcome State Fault Refusal := clocked s (armUnused s)

/-- Unused codes 12 to 15 (R129): recovery to IDLE, whichever of the four the code is. -/
def execUnused1215 (_code : BitVec 4) (s : State) : Host.Outcome State Fault Refusal := clocked s (armUnused s)

end Sys2Proof.Machine
end

