-- ==== Sys2Proof/Machine/Control.lean ====
section
/-! DEFINITION. The meanings of the host's commands, format C: RESET (70_reset_and_hazards.md R260), NOP and READ
(41_timing_state_machine.md R120 to R122). -/

namespace Sys2Proof.Machine

/-- The arm of the current state (R120), for a value of `start`. -/
def stateArm (start : Bool) (s : State) : Host.Outcome State Fault Refusal :=
  match s.state.toNat with
  | 0 => armIdle start s
  | 1 => armStartPulse s
  | 2 => armReleaseLine s
  | 3 => armWaitAck s
  | 4 => armAckLow s
  | 5 => armBitWaitLow s
  | 6 => armBitWaitHigh s
  | 7 => armBitDelay s
  | 8 => armDone start s
  | 9 => armTimedOut start s
  | _ => armUnused s

/-- RESET (R260): every register takes its reset value, "whatever its state and inputs"; `start` is ignored. -/
def execReset (_start : Bool) (s : State) : Host.Outcome State Fault Refusal := guarded s (.next s.resetRegs)

/-- NOP (R120): "the arm of the current state runs alone". -/
def execNop (s : State) : Host.Outcome State Fault Refusal := clocked s (stateArm false s)

/-- READ (R121, R122): accepted in IDLE, DONE and TIMED_OUT; in every other state the request is ignored and the
state's arm runs as without it. -/
def execRead (s : State) : Host.Outcome State Fault Refusal := clocked s (stateArm true s)

end Sys2Proof.Machine
end

