-- ==== Sys2Proof/Machine/Ports.lean ====
section
/-! DEFINITION. The meanings of the rows that drive an output port: the pin operations of format P
(40_line_driver.md R101 to R103) and the humidity variants of format G (43_reading_interpreter.md R202, R203). They
are combinational: they write their port and no register. -/

namespace Sys2Proof.Machine

/-- DRIVE_LOW (R101): `line_oe = 1; line_out = 0`. -/
def execDriveLow (s : State) : Host.Outcome State Fault Refusal := guarded s (.next (s.drivePin true false))

/-- DRIVE_HIGH (R102): `line_oe = 1; line_out = 1`. -/
def execDriveHigh (s : State) : Host.Outcome State Fault Refusal := guarded s (.next (s.drivePin true true))

/-- RELEASE (R103): `line_oe = 0; line_out = 1`. -/
def execRelease (s : State) : Host.Outcome State Fault Refusal := guarded s (.next (s.drivePin false true))

/-- HUM_RAW (R202): `humidity_o = rawHumidity`. -/
def execHumRaw (s : State) : Host.Outcome State Fault Refusal :=
  guarded s (.next (s.driveHumidity (humidityRaw s.frame)))

/-- HUM_DIV10 (R203): `humidity_o = rawHumidity / 10`. -/
def execHumDiv10 (s : State) : Host.Outcome State Fault Refusal :=
  guarded s (.next (s.driveHumidity (humidityDiv10 s.frame)))

end Sys2Proof.Machine
end

