-- ==== Sys2Proof/Machine/Dispatch.lean ====
section
/-! DEFINITION. The dispatch: one arm per row of spec/opcode_table.json (30_encoding.md R84). -/

namespace Sys2Proof.Machine

def exec (i : Instr) (s : State) : Host.Outcome State Fault Refusal :=
  match i with
  | .idle => Sys2Proof.Machine.execIdle s
  | .startPulse => Sys2Proof.Machine.execStartPulse s
  | .releaseLine => Sys2Proof.Machine.execReleaseLine s
  | .waitAck => Sys2Proof.Machine.execWaitAck s
  | .ackLow => Sys2Proof.Machine.execAckLow s
  | .bitWaitLow => Sys2Proof.Machine.execBitWaitLow s
  | .bitWaitHigh => Sys2Proof.Machine.execBitWaitHigh s
  | .bitDelay => Sys2Proof.Machine.execBitDelay s
  | .done => Sys2Proof.Machine.execDone s
  | .timedOut => Sys2Proof.Machine.execTimedOut s
  | .unused1011 code => Sys2Proof.Machine.execUnused1011 code s
  | .unused1215 code => Sys2Proof.Machine.execUnused1215 code s
  | .driveLow => Sys2Proof.Machine.execDriveLow s
  | .driveHigh => Sys2Proof.Machine.execDriveHigh s
  | .release => Sys2Proof.Machine.execRelease s
  | .reset start => Sys2Proof.Machine.execReset start s
  | .nop => Sys2Proof.Machine.execNop s
  | .read => Sys2Proof.Machine.execRead s
  | .humRaw => Sys2Proof.Machine.execHumRaw s
  | .humDiv10 => Sys2Proof.Machine.execHumDiv10 s

end Sys2Proof.Machine
end

