-- ==== Sys2Proof/Machine/Step.lean ====
section
/-! DEFINITION. One step of the block, from cycle k to cycle k+1 (00_scope.md R10, 41_timing_state_machine.md R120,
30_encoding.md R84), and how the host places an operation for the next step. -/

namespace Sys2Proof.Machine

/-- The operation on the registers at the clock edge that ends this cycle (R120): RESET if `rst_n = 0`, else the
operation of the state code. -/
def edgeInstr (s : State) : Instr :=
  if s.input.rstN then decodeState s.state else decodeControl s.input.control

/-- The outputs of a cycle settle (R22, R84): the pin operation of the state's P code, then the humidity variant of
this cycle's `cfg_hum_div10`. -/
def settle (s : State) : Host.Outcome State Fault Refusal :=
  match decodePin (pinCode s.state) with
  | .error _ => .refused .reservedPinCode
  | .ok p => andThen (exec p s) fun t => exec (decodeVariant t.input.variant) t

/-- One step (R10, R120): the operation at the clock edge, then the next cycle begins and its outputs settle. -/
def step (s : State) : Host.Outcome State Fault Refusal :=
  andThen (exec (edgeInstr s) s) fun t => settle t.nextCycle

/-- The input vector `rst_n = 1, start = 0, line_in = 1` with the configuration's humidity variant. -/
def idleInput (s : State) : Input := ⟨true, false, s.cfg.humDiv10, true⟩

/-- The state `s` with the state code `w` in the state register, where the step decodes its operation, registers that
R33 allows in that state, the pin port driven as that state drives it (R71), and an input vector that neither resets nor
requests in this cycle: the next step runs the row's operation (log entry 5). -/
def State.withFetchWord (s : State) (nbits w : Nat) : State :=
  let code := BitVec.ofNat 4 (w % 2 ^ nbits)
  { s.legalFor code with
    state := code
    lineOe := (pinCode code).getLsbD 1
    lineOut := (pinCode code).getLsbD 0
    stimulus := idleInput s :: s.stimulus.tail }

end Sys2Proof.Machine
end

