-- ==== Sys2Proof/Safety.lean ====
section
/-! DEFINITION. What claims are stated in: busy and terminal states (00_scope.md R12), the bits a read has received and
the frame they pack to (10_state.md R33, 20_memory.md R51), the reachable-state invariant R33, the states reachable
from reset, and the line waveform a sensor's frame makes (42_bit_sample_synchronizer.md R167). -/

namespace Sys2Proof.Machine

/-- "Busy" means the state is one of codes 1 to 7 (R12). -/
abbrev Busy (s : State) : Prop := 1 ≤ s.state.toNat ∧ s.state.toNat ≤ 7

/-- "Terminal" means DONE or TIMED_OUT (R12). -/
abbrev Terminal (s : State) : Prop := s.state = Code.done ∨ s.state = Code.timedOut

/-- The three states that wait for the host and take a request (R121). -/
abbrev Waiting (s : State) : Prop := s.state = Code.idle ∨ s.state = Code.done ∨ s.state = Code.timedOut

/-- The state with another input vector in the current cycle. -/
def State.withInput (s : State) (i : Input) : State := { s with stimulus := i :: s.stimulus.tail }

/-- The synchroniser chain after one more cycle (R160): `sync[1] <- line_in`, `sync[j] <- sync[j-1]`. -/
def shiftedSync (s : State) : List Bool := (s.input.lineIn :: s.sync).dropLast

/-- `n` steps, stopping at the first fault or refusal. -/
def steps : Nat → State → Host.Outcome State Fault Refusal
  | 0, s => .next s
  | n + 1, s => andThen (step s) (steps n)

/-! ## The bits received -/

/-- R33's n, the number of bits sampled since the last accept. -/
def bitsSampled (s : State) : Nat := bitsIn s.state s.bitIdx

/-- R33's packed value of a sequence of bits, `Σ bit_i * 2^(b-i)`: the first bit is the most significant. -/
def packedValue : List Bool → Nat
  | [] => 0
  | b :: r => (if b then 2 ^ r.length else 0) + packedValue r

/-- The bits of byte k among the bits received: bits `8k .. min(n, 8k+8)-1` (R33). -/
def byteBits (bits : List Bool) (k : Nat) : List Bool := (bits.drop (8 * k)).take 8

/-- The frame holds exactly the bits received, packed as R33 says. -/
def Received (bits : List Bool) (s : State) : Prop :=
  bits.length = bitsSampled s ∧
    ∀ k < 5, memRead s.frame k = some (BitVec.ofNat 8 (packedValue (byteBits bits k)))

/-- The bits received once the clock edge of this cycle has passed: none after a reset or an accept, one more after
the last cycle of BIT_DELAY (R164), else the same. -/
def bitsAfterEdge (bits : List Bool) (s : State) : List Bool :=
  if s.input.rstN = false then []
  else if Waiting s ∧ s.input.start = true then []
  else if s.state = Code.bitDelay ∧ s.cnt = s.cfg.tSample - 1 then bits ++ [s.lineS]
  else bits

/-- The bits received after `n` steps, as far as they answer a next state, from those received before them. -/
def bitsAfterSteps : Nat → List Bool → State → List Bool
  | 0, bits, _ => bits
  | n + 1, bits, s =>
    match step s with
    | .next t => bitsAfterSteps n (bitsAfterEdge bits s) t
    | _ => bits

/-! ## The reachable-state invariant (R33) -/

/-- Every state reachable from reset satisfies this: R33, with the length of the synchroniser chain (R28), the causes'
records (R230), the settled outputs (R22, R71, R211) and the constraints on the configuration (R7). -/
structure Invariant (s : State) : Prop where
  configOk : ConfigOk s.cfg
  stateUsed : s.state.toNat ≤ 9
  cntBounded : s.cnt < cntBound s.cfg s.state
  bitIdxBounded : s.bitIdx.toNat ≤ 39
  bitIdxBeforeBits : s.state.toNat ≤ 4 → s.bitIdx = 0
  bitIdxDone : s.state = Code.done → s.bitIdx = 39
  noCause : s.state ≠ Code.timedOut → s.errCause = 0
  someCause : s.state = Code.timedOut → s.errCause ≠ 0
  ackCauseBit : s.errCause = Cause.ackTimeout.code ∨ s.errCause = Cause.ackEndTimeout.code → s.bitIdx = 0
  frameReceived : ∃ bits, Received bits s
  syncLength : s.sync.length = s.cfg.syncStages
  pinSettled : s.lineOe = (pinCode s.state).getLsbD 1 ∧ s.lineOut = (pinCode s.state).getLsbD 0
  humiditySettled : s.humidityO = humidity s.input.cfgHumDiv10 s.frame

/-- The states of the runs of a configuration (R262: every run starts from ResetState). -/
inductive Reachable (c : Config.Params) : State → Prop where
  | start (inputs : List Input) : Reachable c (State.resetWith c inputs)
  | next {s t : State} : Reachable c s → step s = .next t → Reachable c t

/-! ## Waveforms (R167) -/

/-- One bit as the sensor sends it: a low period of `low` cycles, then a high level of `high` cycles. -/
structure BitWave where
  low : Nat
  high : Nat
  deriving DecidableEq, Repr

/-- The line levels of a sequence of bits. -/
def waveLevels : List BitWave → List Bool
  | [] => []
  | w :: r => List.replicate w.low false ++ (List.replicate w.high true ++ waveLevels r)

/-- (B1): a bit is 1 iff its high level lasts at least T_SAMPLE + 1 cycles. -/
def waveBit (tSample : Nat) (w : BitWave) : Bool := decide (tSample + 1 ≤ w.high)

/-- The low period after a bit: the next bit's, or the `tail` after the last one. -/
def nextLow (tail : Nat) : List BitWave → Nat
  | [] => tail
  | w :: _ => w.low

/-- (B1) to (B4) for one bit that is followed by the bits `r` and after them by `tail` low cycles. After the last bit
only the sample itself needs the line to be low for a 0. -/
abbrev WaveOk (p : Config.Params) (tail : Nat) (w : BitWave) (r : List BitWave) : Prop :=
  1 ≤ w.high ∧
  if waveBit p.tSample w = true then
    r = [] ∨ (w.high - p.tSample ≤ p.phasePollMax ∧ 1 ≤ nextLow tail r ∧ nextLow tail r ≤ p.phasePollMax)
  else if r = [] then p.tSample + 1 ≤ w.high + tail
  else p.tSample + 2 ≤ w.high + nextLow tail r ∧ w.high + nextLow tail r - p.tSample - 1 ≤ p.phasePollMax

/-- (B1) to (B4) for every bit of a sequence that is followed by `tail` low cycles. -/
def wavesOk (p : Config.Params) (tail : Nat) : List BitWave → Bool
  | [] => true
  | w :: r => decide (WaveOk p tail w r) && wavesOk p tail r

/-- The levels `line_s` takes in this cycle and the next ones, as far as the chain and the given inputs fix them: the
chain's last stage first, then the coming `line_in` (R160, R169). -/
def seenLine (s : State) : List Bool := s.sync.reverse ++ s.stimulus.map Input.lineIn

end Sys2Proof.Machine
end

