-- ==== Sys2Proof/Certificates/Slice0/Obligations.lean ====
section
/-! DEFINITION. The statements about the model, from the numbered rules of spec/. Each docstring names the rules it
formalises. `shiftedSync s` is the chain after one shift (R160): it changes at every clock edge with `rst_n = 1`, in
every state, so every statement about such an edge names it. `Legal c s` says that R33 allows the registers of `s` in the
state c; elsewhere an operation is refused (R33 and U5, `UnreachableStatesRefused`). -/

open Sys2Proof Sys2Proof.Machine

/-! ## Encoding -/

/-- Words written out from R71, R72, R74, R76 and R81 decode to what they stand for. -/
def Obligations.TableWordsDecode : Prop :=
  decode .s 0b0011 = .ok .waitAck ∧ decode .s 0b0101 = .ok .bitWaitLow ∧ decode .s 0b1000 = .ok .done ∧
  decode .s 0b1011 = .ok (.unused1011 0b1011) ∧ decode .s 0b1110 = .ok (.unused1215 0b1110) ∧
  decode .p 0b10 = .ok .driveLow ∧ decode .p 0b00 = .error .reservedPinCode ∧ decode .c 0b01 = .ok (.reset true) ∧
  decode .c 0b11 = .ok .read ∧ decode .g 0b1 = .ok .humDiv10 ∧ decode .s 0b10000 = .error (.tooWide .s)

/-- Decoder and encoder agree in both directions, over every word and every instruction. -/
def Obligations.DecodeInvertsEncode : Prop :=
  ∀ (f : Fmt) (w : Nat) (i : Instr), decode f w = .ok i ↔ WellFormed i ∧ formatOf i = f ∧ encode i = w

/-- R84: within a format the rows are disjoint and cover every value but the reserved P code 00, and the decoder gives
the instruction of the row that is selected. -/
def Obligations.RowsDisjointAndCovering : Prop :=
  ∀ (f : Fmt) (w : Nat), w < 2 ^ f.width →
    ((rowsOf f).filter fun r => decide (r.Selects w)).length = (if f = .p ∧ w = 0 then 0 else 1) ∧
    ∀ i, decode f w = .ok i →
      ((rowsOf f).filter fun r => decide (r.Selects w)).map Row.mnemonic = [mnemonicOf i]

/-- R73, R74, R76: the fields of the input vector are the bits of its word. -/
def Obligations.InputVectorFields : Prop :=
  ∀ w : BitVec 4, (Input.ofWord w).toWord = w ∧ (Input.ofWord w).rstN = w.getLsbD 3 ∧
    (Input.ofWord w).start = w.getLsbD 2 ∧ (Input.ofWord w).cfgHumDiv10 = w.getLsbD 1 ∧
    (Input.ofWord w).lineIn = w.getLsbD 0 ∧ (Input.ofWord w).control = w.extractLsb' 2 2 ∧
    (Input.ofWord w).variant = w.extractLsb' 1 1

/-! ## The step -/

/-- R120, R84: a step runs the instruction the state register decodes to, or RESET; then the next cycle's input vector
becomes the current one and the P and G operations of the new cycle drive their ports. A stop of the instruction is a
stop of the step. -/
def Obligations.StepRunsDecodedInstruction : Prop :=
  ∀ (s : State) (i : Instr),
    (s.input.rstN = true ∧ decode .s s.state.toNat = .ok i ∨ s.input.rstN = false ∧ i = .reset s.input.start) →
    (∀ t, exec i s = .next t →
      step s = .next { t.nextCycle with
        lineOe := (pinCode t.state).getLsbD 1
        lineOut := (pinCode t.state).getLsbD 0
        humidityO := humidity t.nextCycle.input.cfgHumDiv10 t.frame }) ∧
    (∀ e, exec i s = .fault e → step s = .fault e) ∧
    (∀ e, exec i s = .refused e → step s = .refused e)

/-- R74, R120: the step is also the host's command of the cycle, decoded from `I[3:2]`: RESET, NOP or READ. -/
def Obligations.StepRunsHostCommand : Prop :=
  ∀ s : State, step s = andThen (exec (decodeControl s.input.control) s) fun t => settle t.nextCycle

/-- R7: a configuration that breaks a constraint is refused, by every instruction and by the step; the listed breaches
are breaches, and a start pulse too short to wake a sensor is none. That a CNT_W wider than P8's is refused too, and that
every instruction checks the configuration, is log entry 10 (DEDUCED). -/
def Obligations.BadConfigurationRefused : Prop :=
  (∀ (i : Instr) (s : State), ¬ ConfigOk s.cfg →
    exec i s = .refused .badConfiguration ∧ step s = .refused .badConfiguration) ∧
  (∀ p : Config.Params, (p.tStart = 0 ∨ p.tRelease = 0 ∨ p.tSample = 0 ∨ p.ackPollMax = 0 ∨ p.phasePollMax = 0 ∨
    p.syncStages > p.tRelease ∨ p.syncStages ≥ p.ackPollMax ∨ 2 ^ p.cntW ≤ counterMax p - 1) → ¬ ConfigOk p) ∧
  ∃ p : Config.Params, ConfigOk p ∧ ¬ WakesSensor p

/-! ## Reset -/

/-- R260: RESET sets every register whatever the state and the inputs, and a step with `rst_n = 0` gives ResetState in
the next cycle. -/
def Obligations.ResetGivesResetState : Prop :=
  ∀ s : State, ConfigOk s.cfg →
    (∀ b, exec (.reset b) s = .next { s with
      state := 0, cnt := 0, bitIdx := 0, frame := ⟨0x00, 0x00, 0x00, 0x00, 0x00⟩, errCause := 0
      sync := List.replicate s.cfg.syncStages true }) ∧
    (s.input.rstN = false →
      step s = .next { State.resetWith s.cfg s.stimulus.tail with cycle := s.cycle + 1 })

/-- R261: the outputs in the first cycle after reset. -/
def Obligations.ResetOutputs : Prop :=
  ∀ s : State, ConfigOk s.cfg → s.input.rstN = false →
    ∃ t, step s = .next t ∧ outputs t =
      { lineOe := false, lineOut := true, busy := false, status := 0b00, errCause := 0, frameO := 0, humidityO := 0
        temperatureO := 0, checksumO := 0, checksumValidO := true, stateO := 0, bitIdxO := 0 }

/-- R33 holds in ResetState, for every configuration that meets R6 and whatever inputs follow. -/
def Obligations.InvariantAtReset : Prop :=
  ∀ (p : Config.Params) (inputs : List Input), ConfigOk p → Invariant (State.resetWith p inputs)

/-! ## The rows of format S -/

/-- R121, R123, R127, R128: IDLE, DONE and TIMED_OUT take a request, and change nothing without one. -/
def Obligations.WaitingStatesAcceptOrHold : Prop :=
  (decodeState 0b0000 = .idle ∧ pinCode 0b0000 = 0b01 ∧ statusOf 0b0000 = 0b00) ∧
  (decodeState 0b1000 = .done ∧ pinCode 0b1000 = 0b11 ∧ statusOf 0b1000 = 0b10) ∧
  (decodeState 0b1001 = .timedOut ∧ pinCode 0b1001 = 0b01 ∧ statusOf 0b1001 = 0b11) ∧
  ∀ (s : State) (i : Instr) (c : BitVec 4), ConfigOk s.cfg →
    (i = .idle ∧ c = Code.idle ∨ i = .done ∧ c = Code.done ∨ i = .timedOut ∧ c = Code.timedOut) → Legal c s →
    (s.input.start = true → exec i s = .next { s with
      state := 1, cnt := 0, bitIdx := 0, frame := ⟨0, 0, 0, 0, 0⟩, errCause := 0, sync := shiftedSync s }) ∧
    (s.input.start = false → exec i s = .next { s with sync := shiftedSync s })

/-- R81: `err_cause = 0` together with `status = 11` is a combination to treat "as a refusal": the row TIMED_OUT is
refused in it, and so are NOP, READ and the step of a state that shows it, unless the step is a reset (R260). -/
def Obligations.CauselessTimeoutRefused : Prop :=
  ∀ s : State, ConfigOk s.cfg → s.errCause = 0 →
    exec .timedOut s = .refused .unreachableState ∧
    (s.state = Code.timedOut →
      exec .nop s = .refused .unreachableState ∧ exec .read s = .refused .unreachableState ∧
      (s.input.rstN = true → step s = .refused .unreachableState) ∧
      (s.input.rstN = false → ∃ t, step s = .next t ∧ t.state = Code.idle))

/-- R124. -/
def Obligations.StartPulseHoldsThenReleases : Prop :=
  decodeState 0b0001 = .startPulse ∧ pinCode 0b0001 = 0b10 ∧ statusOf 0b0001 = 0b01 ∧
  ∀ s : State, ConfigOk s.cfg → Legal Code.startPulse s →
    (s.cnt = s.cfg.tStart - 1 →
      exec .startPulse s = .next { s with state := 2, cnt := 0, sync := shiftedSync s }) ∧
    (s.cnt ≠ s.cfg.tStart - 1 →
      exec .startPulse s = .next { s with cnt := (s.cnt + 1) % 2 ^ s.cfg.cntW, sync := shiftedSync s })

/-- R125. -/
def Obligations.ReleaseLineHoldsThenWaits : Prop :=
  decodeState 0b0010 = .releaseLine ∧ pinCode 0b0010 = 0b11 ∧ statusOf 0b0010 = 0b01 ∧
  ∀ s : State, ConfigOk s.cfg → Legal Code.releaseLine s →
    (s.cnt = s.cfg.tRelease - 1 →
      exec .releaseLine s = .next { s with state := 3, cnt := 0, sync := shiftedSync s }) ∧
    (s.cnt ≠ s.cfg.tRelease - 1 →
      exec .releaseLine s = .next { s with cnt := (s.cnt + 1) % 2 ^ s.cfg.cntW, sync := shiftedSync s })

/-- R126, R231.
That the chain shifts in the step that raises, too, is R120 and R160, DEDUCED against R238's words: log entry 15. -/
def Obligations.WaitAckDetectsTimesOutOrPolls : Prop :=
  decodeState 0b0011 = .waitAck ∧ pinCode 0b0011 = 0b01 ∧ statusOf 0b0011 = 0b01 ∧
  ∀ s : State, ConfigOk s.cfg → Legal Code.waitAck s →
    (s.lineS = false → exec .waitAck s = .next { s with state := 4, cnt := 0, sync := shiftedSync s }) ∧
    (s.lineS = true → s.cnt = s.cfg.ackPollMax - 1 →
      exec .waitAck s = .next { s with errCause := 1, state := 9, cnt := 0, sync := shiftedSync s }) ∧
    (s.lineS = true → s.cnt ≠ s.cfg.ackPollMax - 1 →
      exec .waitAck s = .next { s with cnt := (s.cnt + 1) % 2 ^ s.cfg.cntW, sync := shiftedSync s })

/-- R161, R232.
That the chain shifts in the step that raises, too, is R120 and R160, DEDUCED against R238's words: log entry 15. -/
def Obligations.AckLowDetectsTimesOutOrPolls : Prop :=
  decodeState 0b0100 = .ackLow ∧ pinCode 0b0100 = 0b01 ∧ statusOf 0b0100 = 0b01 ∧
  ∀ s : State, ConfigOk s.cfg → Legal Code.ackLow s →
    (s.lineS = true → exec .ackLow s = .next { s with state := 5, cnt := 0, sync := shiftedSync s }) ∧
    (s.lineS = false → s.cnt = s.cfg.phasePollMax - 1 →
      exec .ackLow s = .next { s with errCause := 2, state := 9, cnt := 0, sync := shiftedSync s }) ∧
    (s.lineS = false → s.cnt ≠ s.cfg.phasePollMax - 1 →
      exec .ackLow s = .next { s with cnt := (s.cnt + 1) % 2 ^ s.cfg.cntW, sync := shiftedSync s })

/-- R162, R233.
That the chain shifts in the step that raises, too, is R120 and R160, DEDUCED against R238's words: log entry 15. -/
def Obligations.BitWaitLowDetectsTimesOutOrPolls : Prop :=
  decodeState 0b0101 = .bitWaitLow ∧ pinCode 0b0101 = 0b01 ∧ statusOf 0b0101 = 0b01 ∧
  ∀ s : State, ConfigOk s.cfg → Legal Code.bitWaitLow s →
    (s.lineS = false → exec .bitWaitLow s = .next { s with state := 6, cnt := 0, sync := shiftedSync s }) ∧
    (s.lineS = true → s.cnt = s.cfg.phasePollMax - 1 →
      exec .bitWaitLow s = .next { s with errCause := 3, state := 9, cnt := 0, sync := shiftedSync s }) ∧
    (s.lineS = true → s.cnt ≠ s.cfg.phasePollMax - 1 →
      exec .bitWaitLow s = .next { s with cnt := (s.cnt + 1) % 2 ^ s.cfg.cntW, sync := shiftedSync s })

/-- R163, R233.
That the chain shifts in the step that raises, too, is R120 and R160, DEDUCED against R238's words: log entry 15. -/
def Obligations.BitWaitHighDetectsTimesOutOrPolls : Prop :=
  decodeState 0b0110 = .bitWaitHigh ∧ pinCode 0b0110 = 0b01 ∧ statusOf 0b0110 = 0b01 ∧
  ∀ s : State, ConfigOk s.cfg → Legal Code.bitWaitHigh s →
    (s.lineS = true → exec .bitWaitHigh s = .next { s with state := 7, cnt := 0, sync := shiftedSync s }) ∧
    (s.lineS = false → s.cnt = s.cfg.phasePollMax - 1 →
      exec .bitWaitHigh s = .next { s with errCause := 3, state := 9, cnt := 0, sync := shiftedSync s }) ∧
    (s.lineS = false → s.cnt ≠ s.cfg.phasePollMax - 1 →
      exec .bitWaitHigh s = .next { s with cnt := (s.cnt + 1) % 2 ^ s.cfg.cntW, sync := shiftedSync s })

/-- R164, R165: BIT_DELAY counts, and in its last cycle shifts the level of the line into byte `bit_idx / 8`; after
bit 39 the read is done. Every other byte of the frame reads as before. -/
def Obligations.BitDelayCountsThenSamples : Prop :=
  decodeState 0b0111 = .bitDelay ∧ pinCode 0b0111 = 0b01 ∧ statusOf 0b0111 = 0b01 ∧
  ∀ s : State, ConfigOk s.cfg → Legal Code.bitDelay s →
    (s.cnt ≠ s.cfg.tSample - 1 →
      exec .bitDelay s = .next { s with cnt := (s.cnt + 1) % 2 ^ s.cfg.cntW, sync := shiftedSync s }) ∧
    (s.cnt = s.cfg.tSample - 1 →
      ∃ (old : Byte) (f : Frame), memRead s.frame (s.bitIdx.toNat / 8) = some old ∧
        memRead f (s.bitIdx.toNat / 8) = some (BitVec.ofNat 8 (old.toNat * 2 + s.lineS.toNat)) ∧
        (∀ k, k ≠ s.bitIdx.toNat / 8 → memRead f k = memRead s.frame k) ∧
        exec .bitDelay s = .next (if s.bitIdx = 39
          then { s with frame := f, state := 8, cnt := 0, sync := shiftedSync s }
          else { s with frame := f, state := 5, cnt := 0, bitIdx := s.bitIdx + 1, sync := shiftedSync s }))

/-- R33, U5: BIT_DELAY with a bit index that no byte of the frame store holds is refused, its sample included. That a
sample by itself would have no byte to write is log entry 7. -/
def Obligations.SampleOutsideFrameRefused : Prop :=
  ∀ s : State, ConfigOk s.cfg → 40 ≤ s.bitIdx.toNat →
    exec .bitDelay s = .refused .unreachableState ∧ s.sample = .fault .noFrameByte

/-- R33, R81, U5: a state that breaks R33 is refused: by the row of its code, by NOP and READ in it, and by the step unless
the step is a reset (R260). That U5 governs over the vectors S5 and S6 is log entry 9. -/
def Obligations.UnreachableStatesRefused : Prop :=
  ∀ s : State, ConfigOk s.cfg →
    (∀ (i : Instr) (c : BitVec 4), c.toNat ≤ 9 → i = decodeState c → ¬ Legal c s →
      exec i s = .refused .unreachableState) ∧
    (s.state.toNat ≤ 9 → ¬ Legal s.state s →
      exec .nop s = .refused .unreachableState ∧ exec .read s = .refused .unreachableState ∧
      (s.input.rstN = true → step s = .refused .unreachableState) ∧
      (s.input.rstN = false → ∃ t, step s = .next t ∧ t.state = Code.idle ∧ Legal t.state t))

/-- R33: the frame check of `Legal` admits exactly the frames that pack some sequence of the bits received so far. -/
def Obligations.LegalFramesPackBits : Prop :=
  ∀ s : State, s.bitIdx.toNat ≤ 39 →
    (FrameFits (bitsSampled s) s.frame ↔ ∃ bits, Received bits s)

/-- R129: the unused codes recover to IDLE in one step, with `start` ignored. -/
def Obligations.UnusedCodesRecover : Prop :=
  (∀ c : BitVec 4, 10 ≤ c.toNat → (decodeState c = .unused1011 c ∨ decodeState c = .unused1215 c) ∧
    pinCode c = 0b01 ∧ statusOf c = 0b00) ∧
  ∀ (s : State) (c : BitVec 4), ConfigOk s.cfg →
    exec (.unused1011 c) s = .next { s with state := 0, cnt := 0, sync := shiftedSync s } ∧
    exec (.unused1215 c) s = .next { s with state := 0, cnt := 0, sync := shiftedSync s }

/-! ## The rows of formats C, P and G -/

/-- R120, R74: NOP runs the arm of the current state alone, as that state's row does without a request. That NOP takes
`start` from its code is log entry 14. -/
def Obligations.NopRunsStateAlone : Prop :=
  ∀ s : State, ConfigOk s.cfg → (s.state.toNat ≤ 9 → Legal s.state s) →
    (Waiting s → exec .nop s = .next { s with sync := shiftedSync s }) ∧
    (¬ Waiting s → exec .nop s = exec (decodeState s.state) s) ∧
    ∃ t, exec .nop s = .next t

/-- R121, R122: READ is accepted in IDLE, DONE and TIMED_OUT; in every other state it leaves no trace. That READ takes
`start` from its code is log entry 14. -/
def Obligations.ReadAcceptedOrIgnored : Prop :=
  ∀ s : State, ConfigOk s.cfg → (s.state.toNat ≤ 9 → Legal s.state s) →
    (Waiting s → exec .read s = .next { s with
      state := 1, cnt := 0, bitIdx := 0, frame := ⟨0, 0, 0, 0, 0⟩, errCause := 0, sync := shiftedSync s }) ∧
    (¬ Waiting s → exec .read s = exec .nop s) ∧
    ∃ t, exec .read s = .next t

/-- R101 to R103, R72: the pin operations drive the pin port and nothing else, and each state produces its own. -/
def Obligations.PinOperationsDriveThePort : Prop :=
  (∀ s : State, ConfigOk s.cfg →
    exec .driveLow s = .next { s with lineOe := true, lineOut := false } ∧
    exec .driveHigh s = .next { s with lineOe := true, lineOut := true } ∧
    exec .release s = .next { s with lineOe := false, lineOut := true }) ∧
  ∀ c : BitVec 4, decodePin (pinCode c) =
    .ok (if c = 1 then .driveLow else if c = 2 ∨ c = 8 then .driveHigh else .release)

/-- R201 to R203: the humidity variants drive the humidity port and nothing else. -/
def Obligations.HumidityVariantsDriveThePort : Prop :=
  ∀ s : State, ConfigOk s.cfg →
    exec .humRaw s = .next { s with
      humidityO := BitVec.ofNat 16 (s.frame.b0.toNat * 256 + s.frame.b1.toNat) } ∧
    exec .humDiv10 s = .next { s with
      humidityO := BitVec.ofNat 16 ((s.frame.b0.toNat * 256 + s.frame.b1.toNat) / 10) }

/-! ## The frame store -/

/-- R50: a byte written is the byte read, every other byte reads as before, and there are bytes 0 to 4 only. That an
access beyond them has no result is log entry 11. -/
def Obligations.FrameStoreReadsWhatWasWritten : Prop :=
  (∀ (f : Frame) (k : Nat) (v : Byte), k ≤ 4 → ∃ g, memWrite f k v = some g ∧ memRead g k = some v ∧
    ∀ j, j ≠ k → memRead g j = memRead f j) ∧
  ∀ (f : Frame) (k : Nat) (v : Byte), 5 ≤ k → memRead f k = none ∧ memWrite f k v = none

/-- R33, R53: if the frame packs 40 given bits as R33 says (`Received`), then `frame_o` is that sequence with the first bit
at `frame_o[39]`, and bit i is bit `7 - i mod 8` of byte `i / 8`. That the bits are the line's is `FrameIsLineSequence`. -/
def Obligations.FirstBitIsMostSignificant : Prop :=
  ∀ (s : State) (bits : List Bool), Received bits s → bits.length = 40 → ∀ i < 40,
    (frameO s.frame).getLsbD (39 - i) = bits.getD i false ∧
    ∃ b, memRead s.frame (i / 8) = some b ∧ b.getLsbD (7 - i % 8) = bits.getD i false

/-! ## The invariant and what follows from it -/

/-- R33: every step keeps the reachable-state invariant. -/
def Obligations.StepKeepsInvariant : Prop :=
  ∀ s t : State, Invariant s → step s = .next t → Invariant t

/-- R33, R165: across every step the frame holds exactly the bits received since the last accept, packed with the
first bit most significant. -/
def Obligations.FrameHoldsBitsReceived : Prop :=
  ∀ (s t : State) (bits : List Bool), Invariant s → Received bits s → step s = .next t →
    Received (bitsAfterEdge bits s) t

/-- R51, R53, R165: a run that is in DONE has in the frame the 40 levels its samples read off the line, in time order: the
first at `frame_o[39]`, and bit i as bit `7 - i mod 8` of byte `i / 8`. `bitsAfterSteps` collects `line_s` at each sample
and starts anew at each accept and reset; a run that begins with no bit received, as at reset, begins with `bits = []`. -/
def Obligations.FrameIsLineSequence : Prop :=
  ∀ (s t : State) (bits : List Bool) (n : Nat), Invariant s → Received bits s →
    steps n s = .next t → t.state = Code.done →
    (bitsAfterSteps n bits s).length = 40 ∧ ∀ i < 40,
      (frameO t.frame).getLsbD (39 - i) = (bitsAfterSteps n bits s).getD i false ∧
      ∃ b, memRead t.frame (i / 8) = some b ∧ b.getLsbD (7 - i % 8) = (bitsAfterSteps n bits s).getD i false

/-- Every reachable state meets the invariant, and none of them stops. -/
def Obligations.ReachableStatesNeverStop : Prop :=
  ∀ (p : Config.Params) (s : State), ConfigOk p → Reachable p s → Invariant s ∧ s.cfg = p ∧ ∃ t, step s = .next t

/-- R130: a step that changes `state` other than by reset sets `cnt` to 0; one that keeps it counts, or leaves `cnt`
unchanged in IDLE, DONE and TIMED_OUT. -/
def Obligations.CounterRestartsWithEveryState : Prop :=
  ∀ s t : State, Invariant s → s.input.rstN = true → step s = .next t →
    (t.state ≠ s.state → t.cnt = 0) ∧
    (t.state = s.state → Busy s → t.cnt = s.cnt + 1) ∧
    (t.state = s.state → Waiting s → t.cnt = s.cnt)

/-- R21, R22: in every cycle that a step begins, each output is the stated function of the registers, and of
`cfg_hum_div10` of the same cycle for the humidity alone. -/
def Obligations.OutputsFollowRegisters : Prop :=
  ∀ s t : State, step s = .next t → outputs t =
    { lineOe := decide (t.state = 1 ∨ t.state = 2 ∨ t.state = 8)
      lineOut := decide (t.state ≠ 1)
      busy := decide (1 ≤ t.state.toNat ∧ t.state.toNat ≤ 7)
      status := if t.state = 8 then 0b10 else if t.state = 9 then 0b11
        else if 1 ≤ t.state.toNat ∧ t.state.toNat ≤ 7 then 0b01 else 0b00
      errCause := t.errCause
      frameO := BitVec.ofNat 40 ((((t.frame.b0.toNat * 256 + t.frame.b1.toNat) * 256 + t.frame.b2.toNat) * 256
        + t.frame.b3.toNat) * 256 + t.frame.b4.toNat)
      humidityO := BitVec.ofNat 16 (if t.input.cfgHumDiv10 = true
        then (t.frame.b0.toNat * 256 + t.frame.b1.toNat) / 10 else t.frame.b0.toNat * 256 + t.frame.b1.toNat)
      temperatureO := BitVec.ofInt 16 (if 128 ≤ t.frame.b2.toNat
        then -(((t.frame.b2.toNat - 128) * 256 + t.frame.b3.toNat : Nat) : Int)
        else ((t.frame.b2.toNat * 256 + t.frame.b3.toNat : Nat) : Int))
      checksumO := BitVec.ofNat 8 (t.frame.b0.toNat + t.frame.b1.toNat + t.frame.b2.toNat + t.frame.b3.toNat)
      checksumValidO := decide ((t.frame.b0.toNat + t.frame.b1.toNat + t.frame.b2.toNat + t.frame.b3.toNat) % 256
        = t.frame.b4.toNat)
      stateO := t.state
      bitIdxO := t.bitIdx }

/-! ## Failures and priority -/

/-- R231 to R233, R238: a time-out is raised only by the last allowed poll of a wait state that does not see the
awaited level; it records the cause of that state and leaves the frame and `bit_idx` as they were. The chain shifts in
that step too: log entry 15. -/
def Obligations.TimeoutsArePrecise : Prop :=
  ∀ s t : State, step s = .next t → t.state = Code.timedOut → s.state ≠ Code.timedOut →
    s.input.rstN = true ∧ t.cnt = 0 ∧ t.frame = s.frame ∧ t.bitIdx = s.bitIdx ∧ t.sync = shiftedSync s ∧
    ((s.state = Code.waitAck ∧ s.lineS = true ∧ s.cnt = s.cfg.ackPollMax - 1 ∧ t.errCause = 1) ∨
     (s.state = Code.ackLow ∧ s.lineS = false ∧ s.cnt = s.cfg.phasePollMax - 1 ∧ t.errCause = 2) ∨
     (s.state = Code.bitWaitLow ∧ s.lineS = true ∧ s.cnt = s.cfg.phasePollMax - 1 ∧ t.errCause = 3) ∨
     (s.state = Code.bitWaitHigh ∧ s.lineS = false ∧ s.cnt = s.cfg.phasePollMax - 1 ∧ t.errCause = 3))

/-- R239, R127, R128: TIMED_OUT and DONE are left only by an accept, which clears the cause, the bit index and the
frame, or by reset. -/
def Obligations.TerminalLeftOnlyByAcceptOrReset : Prop :=
  ∀ s t : State, Terminal s → step s = .next t →
    (s.input.rstN = false ∧ t.state = Code.idle ∧ t.errCause = 0 ∧ t.bitIdx = 0 ∧ t.frame = Frame.zero) ∨
    (s.input.rstN = true ∧ s.input.start = true ∧ t.state = Code.startPulse ∧ t.errCause = 0 ∧ t.bitIdx = 0 ∧
      t.frame = Frame.zero) ∨
    (s.input.rstN = true ∧ s.input.start = false ∧ t.state = s.state ∧ t.errCause = s.errCause ∧
      t.bitIdx = s.bitIdx ∧ t.frame = s.frame)

/-- R127: DONE is entered only from the last cycle of BIT_DELAY of bit 39; and from there it is entered for every frame
that 39 bits can leave and every sampled level, so whatever the checksum says (R209, R234). -/
def Obligations.DoneEnteredOnlyAfterLastSample : Prop :=
  (∀ s t : State, step s = .next t → t.state = Code.done → s.state ≠ Code.done →
    s.input.rstN = true ∧ s.state = Code.bitDelay ∧ s.cnt = s.cfg.tSample - 1 ∧ s.bitIdx = 39 ∧ t.bitIdx = 39 ∧
      t.errCause = s.errCause) ∧
  (∀ s : State, ConfigOk s.cfg → Legal Code.bitDelay s → s.input.rstN = true → s.state = Code.bitDelay → s.cnt = s.cfg.tSample - 1 →
    s.bitIdx = 39 → ∃ t, step s = .next t ∧ t.state = Code.done)

/-- R237: reset beats everything; detection beats the bound. -/
def Obligations.ResetThenDetectionHavePriority : Prop :=
  (∀ s t : State, s.input.rstN = false → step s = .next t → t.state = Code.idle ∧ t.errCause = 0) ∧
  (∀ s t : State, s.input.rstN = true → step s = .next t →
    (s.state = Code.waitAck → s.lineS = false → t.state = Code.ackLow ∧ t.errCause = s.errCause) ∧
    (s.state = Code.ackLow → s.lineS = true → t.state = Code.bitWaitLow ∧ t.errCause = s.errCause) ∧
    (s.state = Code.bitWaitLow → s.lineS = false → t.state = Code.bitWaitHigh ∧ t.errCause = s.errCause) ∧
    (s.state = Code.bitWaitHigh → s.lineS = true → t.state = Code.bitDelay ∧ t.errCause = s.errCause))

/-! ## What a step does not depend on -/

/-- R122: a request made while busy or in an unused code leaves no trace: the step is the same with and without it. -/
def Obligations.RequestWhileBusyLeavesNoTrace : Prop :=
  ∀ (s : State) (i : Input), ¬ Waiting s →
    step (s.withInput { i with start := true }) = step (s.withInput { i with start := false })

/-- R104, R106, R129, R164: in the Output-mode states, in IDLE and TIMED_OUT, in the unused codes, and in BIT_DELAY before
its last cycle, neither the line nor the chain affects anything but the chain. -/
def Obligations.LineUnreadOutsidePollsAndSample : Prop :=
  ∀ (s t t' : State) (chain : List Bool) (i : Input) (b : Bool),
    (Waiting s ∨ s.state = Code.startPulse ∨ s.state = Code.releaseLine ∨ 10 ≤ s.state.toNat ∨
      (s.state = Code.bitDelay ∧ s.cnt ≠ s.cfg.tSample - 1)) →
    step (s.withInput i) = .next t →
    step { s.withInput { i with lineIn := b } with sync := chain } = .next t' →
    { t with sync := [] } = { t' with sync := [] }

/-- R82, R211: the registers never depend on `cfg_hum_div10`. -/
def Obligations.VariantNeverReachesRegisters : Prop :=
  ∀ (s : State) (i : Input),
    step (s.withInput { i with cfgHumDiv10 := true }) = step (s.withInput { i with cfgHumDiv10 := false })

/-- R200, R208: in the cycles that steps begin, the reading outputs depend on the frame, and the humidity also on the
variant, and on nothing else. -/
def Obligations.ReadingDependsOnFrameAlone : Prop :=
  ∀ s s' t t' : State, step s = .next t → step s' = .next t' → t.frame = t'.frame →
    (outputs t).temperatureO = (outputs t').temperatureO ∧ (outputs t).checksumO = (outputs t').checksumO ∧
    (outputs t).checksumValidO = (outputs t').checksumValidO ∧
    (t.input.cfgHumDiv10 = t'.input.cfgHumDiv10 → (outputs t).humidityO = (outputs t').humidityO)

/-! ## The interpreter -/

/-- R203, R210: the divided humidity is the floor of a tenth, at most 6553, with a remainder below 10 dropped. -/
def Obligations.DividedHumidityIsFloor : Prop :=
  ∀ f : Frame, (humidityDiv10 f).toNat ≤ 6553 ∧
    10 * (humidityDiv10 f).toNat ≤ (humidityRaw f).toNat ∧
    (humidityRaw f).toNat < 10 * (humidityDiv10 f).toNat + 10

/-- R204, R205, R210: the temperature is the magnitude with the sign of bit 15, between -32767 and 32767; 0x8000 as a
field gives 0, and as an output never occurs. -/
def Obligations.TemperatureIsSignAndMagnitude : Prop :=
  ∀ f : Frame,
    (temperature f).toInt = (if 128 ≤ f.b2.toNat
      then -(((f.b2.toNat - 128) * 256 + f.b3.toNat : Nat) : Int)
      else ((f.b2.toNat * 256 + f.b3.toNat : Nat) : Int)) ∧
    -32767 ≤ (temperature f).toInt ∧ (temperature f).toInt ≤ 32767 ∧ temperature f ≠ 0x8000#16 ∧
    (f.b2 = 0x80 → f.b3 = 0x00 → temperature f = 0)

/-- R206, R207: the checksum is the sum of the first four bytes mod 256, and it is valid iff it is the fifth. -/
def Obligations.ChecksumIsSumModulo256 : Prop :=
  ∀ f : Frame,
    (checksum f).toNat = (f.b0.toNat + f.b1.toNat + f.b2.toNat + f.b3.toNat) % 256 ∧
    (checksumValid f = true ↔ (f.b0.toNat + f.b1.toNat + f.b2.toNat + f.b3.toNat) % 256 = f.b4.toNat)

/-- R273: "a single wrong bit always changes the sum mod 256": a frame that differs from a valid one in one bit is not
valid. -/
def Obligations.SingleWrongBitIsDetected : Prop :=
  ∀ (f g : Frame) (i : Nat), i < 40 → frameO g = frameO f ^^^ BitVec.twoPow 40 i →
    checksumValid f = true → checksumValid g = false

/-- R270: the checksum flag does not show success: before any bit is received it is 1. -/
def Obligations.EmptyFrameChecksumIsValid : Prop :=
  ∀ s : State, Invariant s → bitsSampled s = 0 → checksumValid s.frame = true ∧ statusOf s.state ≠ 0b10

/-! ## Runs -/

/-- R160: the chain delays the line by SYNC_STAGES cycles: after n steps without reset, `line_s` is the `line_in` of
SYNC_STAGES cycles earlier if n is at least SYNC_STAGES, and 1 if fewer steps were taken since reset. -/
def Obligations.SynchroniserDelaysByItsDepth : Prop :=
  ∀ (s t : State) (n : Nat), n ≤ s.stimulus.length → (∀ i ∈ s.stimulus.take n, i.rstN = true) →
    steps n s = .next t →
    t.sync = (((s.stimulus.take n).map Input.lineIn).reverse ++ s.sync).take s.sync.length ∧
    (s.sync = [] → t.lineS = t.input.lineIn) ∧
    (s.sync ≠ [] → s.sync.length ≤ n →
      t.lineS = (s.stimulus.map Input.lineIn).getD (n - s.sync.length) true) ∧
    (s.sync = List.replicate s.sync.length true → n < s.sync.length → t.lineS = true)

/-- R133, R101, R102: after an accept the line is driven low for exactly T_START cycles and high for exactly T_RELEASE
cycles, and then released in WAIT_ACK. -/
def Obligations.StartSequenceTimingIsExact : Prop :=
  ∀ (s : State) (j : Nat), Invariant s → Waiting s → s.input.start = true →
    (∀ i ∈ s.stimulus, i.rstN = true) → j + 1 ≤ s.stimulus.length → j ≤ s.cfg.tStart + s.cfg.tRelease →
    ∃ t, steps (j + 1) s = .next t ∧
      (j < s.cfg.tStart → t.state = Code.startPulse ∧ t.cnt = j ∧ t.lineOe = true ∧ t.lineOut = false) ∧
      (s.cfg.tStart ≤ j → j < s.cfg.tStart + s.cfg.tRelease →
        t.state = Code.releaseLine ∧ t.cnt = j - s.cfg.tStart ∧ t.lineOe = true ∧ t.lineOut = true) ∧
      (j = s.cfg.tStart + s.cfg.tRelease → t.state = Code.waitAck ∧ t.cnt = 0 ∧ t.lineOe = false)

/-- R266: with the line reading back high through RELEASE_LINE, WAIT_ACK begins with a chain of ones: the start pulse's
low is never taken for an ack. -/
def Obligations.StartPulseNeverTakenForAck : Prop :=
  ∀ s : State, Invariant s → s.state = Code.releaseLine → s.cnt = 0 → s.cfg.tRelease ≤ s.stimulus.length →
    (∀ i ∈ s.stimulus.take s.cfg.tRelease, i.rstN = true ∧ i.lineIn = true) →
    ∃ t, steps s.cfg.tRelease s = .next t ∧ t.state = Code.waitAck ∧ t.cnt = 0 ∧
      t.sync = List.replicate s.cfg.syncStages true

/-- R132: every read ends within the bound whatever the line does, stays busy until then, and ends in DONE no sooner
than the lower bound. The accept is in the cycle of `s`, so the end j cycles later is R132's `t = t0 + j`. -/
def Obligations.EveryReadEndsWithinBound : Prop :=
  ∀ s : State, Invariant s → Waiting s → s.input.start = true → (∀ i ∈ s.stimulus, i.rstN = true) →
    s.cfg.tStart + s.cfg.tRelease + 1 + s.cfg.ackPollMax + s.cfg.phasePollMax
      + 40 * (2 * s.cfg.phasePollMax + s.cfg.tSample) ≤ s.stimulus.length →
    ∃ (j : Nat) (t : State), steps j s = .next t ∧ Terminal t ∧ 1 ≤ j ∧
      (∀ k, 1 ≤ k → k < j → ∃ u, steps k s = .next u ∧ Busy u) ∧
      j ≤ s.cfg.tStart + s.cfg.tRelease + 1 + s.cfg.ackPollMax + s.cfg.phasePollMax
        + 40 * (2 * s.cfg.phasePollMax + s.cfg.tSample) ∧
      (t.state = Code.done → s.cfg.tStart + s.cfg.tRelease + 1 + 2 + 40 * (2 + s.cfg.tSample) ≤ j)

/-- R167: under the waveform conditions (B1) to (B5) the read ends in DONE with the sensor's 40 bits in the frame, each
bit 1 exactly when its high level lasts at least T_SAMPLE + 1 cycles. The levels are those `line_s` takes. The block is
busy from the accept on until that DONE. -/
def Obligations.SensorFrameIsReceived : Prop :=
  ∀ (s : State) (ack ackLow ackHigh : Nat) (waves : List BitWave) (tail : Nat),
    Invariant s → Waiting s → s.input.start = true → (∀ i ∈ s.stimulus, i.rstN = true) →
    waves.length = 40 →
    ack < s.cfg.ackPollMax →
    1 ≤ ackLow → ackLow ≤ s.cfg.phasePollMax →
    1 ≤ ackHigh → ackHigh ≤ s.cfg.phasePollMax →
    1 ≤ nextLow tail waves → nextLow tail waves ≤ s.cfg.phasePollMax →
    wavesOk s.cfg tail waves = true →
    List.replicate ack true ++ (List.replicate ackLow false ++ (List.replicate ackHigh true ++
      (waveLevels waves ++ List.replicate tail false)))
      <+: (seenLine s).drop (s.cfg.tStart + s.cfg.tRelease + 1) →
    s.cfg.tStart + s.cfg.tRelease + 1 + (ack + ackLow + ackHigh + (waveLevels waves).length + tail)
      ≤ s.stimulus.length →
    ∃ (j : Nat) (t : State), steps j s = .next t ∧ t.state = Code.done ∧ 1 ≤ j ∧
      (∀ k, 1 ≤ k → k < j → ∃ u, steps k s = .next u ∧ Busy u) ∧
      Received (waves.map (waveBit s.cfg.tSample)) t
end

