-- ==== Sys2Proof/Laws/Decode.lean ====
section
/-! SUPPORT. Lemmas of the decoder's four spaces and of the codes a state code selects. -/

namespace Sys2Proof

/-- Case split on a 2-bit code. -/
theorem bitVec2_cases (v : BitVec 2) : v = 0 ∨ v = 1 ∨ v = 2 ∨ v = 3 := by
  revert v; decide

/-- Case split on a 4-bit state code. -/
theorem bitVec4_cases (v : BitVec 4) :
    v = 0 ∨ v = 1 ∨ v = 2 ∨ v = 3 ∨ v = 4 ∨ v = 5 ∨ v = 6 ∨ v = 7 ∨ v = 8 ∨ v = 9 ∨ 10 ≤ v.toNat := by
  revert v; decide

theorem decode_of_lt_s {w : Nat} (h : w < 16) : decode .s w = .ok (decodeState (BitVec.ofNat 4 w)) := by
  have : w < 2 ^ Fmt.width .s := h
  simp only [decode, this, if_true]

theorem decode_state_toNat (v : BitVec 4) : decode .s v.toNat = .ok (decodeState v) := by
  rw [decode_of_lt_s v.isLt, BitVec.ofNat_toNat, BitVec.setWidth_eq]

@[simp] theorem Input.ofWord_toWord (i : Input) : Input.ofWord i.toWord = i := by
  obtain ⟨a, b, c, d⟩ := i
  cases a <;> cases b <;> cases c <;> cases d <;> rfl

namespace Machine

/-- The P column of R71 by state (R101 to R103). -/
theorem pinCode_eq (c : BitVec 4) :
    pinCode c = if c = Code.startPulse then 0b10 else if c = Code.releaseLine ∨ c = Code.done then 0b11 else 0b01 := by
  revert c; decide

/-- No state has the reserved pin code (R81). -/
theorem decodePin_pinCode (c : BitVec 4) :
    decodePin (pinCode c) = .ok (if c = Code.startPulse then .driveLow
      else if c = Code.releaseLine ∨ c = Code.done then .driveHigh else .release) := by
  rw [pinCode_eq]
  split
  · rfl
  · split <;> rfl

end Machine

end Sys2Proof
end

