-- ==== Sys2Proof/Laws/State.lean ====
section
/-! SUPPORT. What each named update of the state does to each field: one lemma per field per update, true by rfl. -/

namespace Sys2Proof.Machine

@[simp] theorem State.goto_cfg (s : State) (c : BitVec 4) : (s.goto c).cfg = s.cfg := rfl
@[simp] theorem State.goto_state (s : State) (c : BitVec 4) : (s.goto c).state = c := rfl
@[simp] theorem State.goto_cnt (s : State) (c : BitVec 4) : (s.goto c).cnt = 0 := rfl
@[simp] theorem State.goto_bitIdx (s : State) (c : BitVec 4) : (s.goto c).bitIdx = s.bitIdx := rfl
@[simp] theorem State.goto_frame (s : State) (c : BitVec 4) : (s.goto c).frame = s.frame := rfl
@[simp] theorem State.goto_errCause (s : State) (c : BitVec 4) : (s.goto c).errCause = s.errCause := rfl
@[simp] theorem State.goto_sync (s : State) (c : BitVec 4) : (s.goto c).sync = s.sync := rfl
@[simp] theorem State.goto_lineOe (s : State) (c : BitVec 4) : (s.goto c).lineOe = s.lineOe := rfl
@[simp] theorem State.goto_lineOut (s : State) (c : BitVec 4) : (s.goto c).lineOut = s.lineOut := rfl
@[simp] theorem State.goto_humidityO (s : State) (c : BitVec 4) : (s.goto c).humidityO = s.humidityO := rfl
@[simp] theorem State.goto_stimulus (s : State) (c : BitVec 4) : (s.goto c).stimulus = s.stimulus := rfl
@[simp] theorem State.goto_cycle (s : State) (c : BitVec 4) : (s.goto c).cycle = s.cycle := rfl
@[simp] theorem State.goto_input (s : State) (c : BitVec 4) : (s.goto c).input = s.input := rfl
@[simp] theorem State.goto_lineS (s : State) (c : BitVec 4) : (s.goto c).lineS = s.lineS := rfl

@[simp] theorem State.countUp_cfg (s : State) : s.countUp.cfg = s.cfg := rfl
@[simp] theorem State.countUp_state (s : State) : s.countUp.state = s.state := rfl
@[simp] theorem State.countUp_cnt (s : State) : s.countUp.cnt = (s.cnt + 1) % 2 ^ s.cfg.cntW := rfl
@[simp] theorem State.countUp_bitIdx (s : State) : s.countUp.bitIdx = s.bitIdx := rfl
@[simp] theorem State.countUp_frame (s : State) : s.countUp.frame = s.frame := rfl
@[simp] theorem State.countUp_errCause (s : State) : s.countUp.errCause = s.errCause := rfl
@[simp] theorem State.countUp_sync (s : State) : s.countUp.sync = s.sync := rfl
@[simp] theorem State.countUp_lineOe (s : State) : s.countUp.lineOe = s.lineOe := rfl
@[simp] theorem State.countUp_lineOut (s : State) : s.countUp.lineOut = s.lineOut := rfl
@[simp] theorem State.countUp_humidityO (s : State) : s.countUp.humidityO = s.humidityO := rfl
@[simp] theorem State.countUp_stimulus (s : State) : s.countUp.stimulus = s.stimulus := rfl
@[simp] theorem State.countUp_cycle (s : State) : s.countUp.cycle = s.cycle := rfl
@[simp] theorem State.countUp_input (s : State) : s.countUp.input = s.input := rfl
@[simp] theorem State.countUp_lineS (s : State) : s.countUp.lineS = s.lineS := rfl

@[simp] theorem State.accept_cfg (s : State) : s.accept.cfg = s.cfg := rfl
@[simp] theorem State.accept_state (s : State) : s.accept.state = Code.startPulse := rfl
@[simp] theorem State.accept_cnt (s : State) : s.accept.cnt = 0 := rfl
@[simp] theorem State.accept_bitIdx (s : State) : s.accept.bitIdx = 0 := rfl
@[simp] theorem State.accept_frame (s : State) : s.accept.frame = Frame.zero := rfl
@[simp] theorem State.accept_errCause (s : State) : s.accept.errCause = 0 := rfl
@[simp] theorem State.accept_sync (s : State) : s.accept.sync = s.sync := rfl
@[simp] theorem State.accept_lineOe (s : State) : s.accept.lineOe = s.lineOe := rfl
@[simp] theorem State.accept_lineOut (s : State) : s.accept.lineOut = s.lineOut := rfl
@[simp] theorem State.accept_humidityO (s : State) : s.accept.humidityO = s.humidityO := rfl
@[simp] theorem State.accept_stimulus (s : State) : s.accept.stimulus = s.stimulus := rfl
@[simp] theorem State.accept_cycle (s : State) : s.accept.cycle = s.cycle := rfl
@[simp] theorem State.accept_input (s : State) : s.accept.input = s.input := rfl
@[simp] theorem State.accept_lineS (s : State) : s.accept.lineS = s.lineS := rfl

@[simp] theorem State.raise_cfg (s : State) (e : Cause) : (s.raise e).cfg = s.cfg := rfl
@[simp] theorem State.raise_state (s : State) (e : Cause) : (s.raise e).state = Code.timedOut := rfl
@[simp] theorem State.raise_cnt (s : State) (e : Cause) : (s.raise e).cnt = 0 := rfl
@[simp] theorem State.raise_bitIdx (s : State) (e : Cause) : (s.raise e).bitIdx = s.bitIdx := rfl
@[simp] theorem State.raise_frame (s : State) (e : Cause) : (s.raise e).frame = s.frame := rfl
@[simp] theorem State.raise_errCause (s : State) (e : Cause) : (s.raise e).errCause = e.code := rfl
@[simp] theorem State.raise_sync (s : State) (e : Cause) : (s.raise e).sync = s.sync := rfl
@[simp] theorem State.raise_lineOe (s : State) (e : Cause) : (s.raise e).lineOe = s.lineOe := rfl
@[simp] theorem State.raise_lineOut (s : State) (e : Cause) : (s.raise e).lineOut = s.lineOut := rfl
@[simp] theorem State.raise_humidityO (s : State) (e : Cause) : (s.raise e).humidityO = s.humidityO := rfl
@[simp] theorem State.raise_stimulus (s : State) (e : Cause) : (s.raise e).stimulus = s.stimulus := rfl
@[simp] theorem State.raise_cycle (s : State) (e : Cause) : (s.raise e).cycle = s.cycle := rfl
@[simp] theorem State.raise_input (s : State) (e : Cause) : (s.raise e).input = s.input := rfl
@[simp] theorem State.raise_lineS (s : State) (e : Cause) : (s.raise e).lineS = s.lineS := rfl

@[simp] theorem State.shiftSync_cfg (s : State) : s.shiftSync.cfg = s.cfg := rfl
@[simp] theorem State.shiftSync_state (s : State) : s.shiftSync.state = s.state := rfl
@[simp] theorem State.shiftSync_cnt (s : State) : s.shiftSync.cnt = s.cnt := rfl
@[simp] theorem State.shiftSync_bitIdx (s : State) : s.shiftSync.bitIdx = s.bitIdx := rfl
@[simp] theorem State.shiftSync_frame (s : State) : s.shiftSync.frame = s.frame := rfl
@[simp] theorem State.shiftSync_errCause (s : State) : s.shiftSync.errCause = s.errCause := rfl
@[simp] theorem State.shiftSync_sync (s : State) : s.shiftSync.sync = (s.input.lineIn :: s.sync).dropLast := rfl
@[simp] theorem State.shiftSync_lineOe (s : State) : s.shiftSync.lineOe = s.lineOe := rfl
@[simp] theorem State.shiftSync_lineOut (s : State) : s.shiftSync.lineOut = s.lineOut := rfl
@[simp] theorem State.shiftSync_humidityO (s : State) : s.shiftSync.humidityO = s.humidityO := rfl
@[simp] theorem State.shiftSync_stimulus (s : State) : s.shiftSync.stimulus = s.stimulus := rfl
@[simp] theorem State.shiftSync_cycle (s : State) : s.shiftSync.cycle = s.cycle := rfl
@[simp] theorem State.shiftSync_input (s : State) : s.shiftSync.input = s.input := rfl

@[simp] theorem State.resetRegs_cfg (s : State) : s.resetRegs.cfg = s.cfg := rfl
@[simp] theorem State.resetRegs_state (s : State) : s.resetRegs.state = Code.idle := rfl
@[simp] theorem State.resetRegs_cnt (s : State) : s.resetRegs.cnt = 0 := rfl
@[simp] theorem State.resetRegs_bitIdx (s : State) : s.resetRegs.bitIdx = 0 := rfl
@[simp] theorem State.resetRegs_frame (s : State) : s.resetRegs.frame = Frame.zero := rfl
@[simp] theorem State.resetRegs_errCause (s : State) : s.resetRegs.errCause = 0 := rfl
@[simp] theorem State.resetRegs_sync (s : State) : s.resetRegs.sync = List.replicate s.cfg.syncStages true := rfl
@[simp] theorem State.resetRegs_lineOe (s : State) : s.resetRegs.lineOe = s.lineOe := rfl
@[simp] theorem State.resetRegs_lineOut (s : State) : s.resetRegs.lineOut = s.lineOut := rfl
@[simp] theorem State.resetRegs_humidityO (s : State) : s.resetRegs.humidityO = s.humidityO := rfl
@[simp] theorem State.resetRegs_stimulus (s : State) : s.resetRegs.stimulus = s.stimulus := rfl
@[simp] theorem State.resetRegs_cycle (s : State) : s.resetRegs.cycle = s.cycle := rfl
@[simp] theorem State.resetRegs_input (s : State) : s.resetRegs.input = s.input := rfl

@[simp] theorem State.drivePin_cfg (s : State) (a b : Bool) : (s.drivePin a b).cfg = s.cfg := rfl
@[simp] theorem State.drivePin_state (s : State) (a b : Bool) : (s.drivePin a b).state = s.state := rfl
@[simp] theorem State.drivePin_cnt (s : State) (a b : Bool) : (s.drivePin a b).cnt = s.cnt := rfl
@[simp] theorem State.drivePin_bitIdx (s : State) (a b : Bool) : (s.drivePin a b).bitIdx = s.bitIdx := rfl
@[simp] theorem State.drivePin_frame (s : State) (a b : Bool) : (s.drivePin a b).frame = s.frame := rfl
@[simp] theorem State.drivePin_errCause (s : State) (a b : Bool) : (s.drivePin a b).errCause = s.errCause := rfl
@[simp] theorem State.drivePin_sync (s : State) (a b : Bool) : (s.drivePin a b).sync = s.sync := rfl
@[simp] theorem State.drivePin_lineOe (s : State) (a b : Bool) : (s.drivePin a b).lineOe = a := rfl
@[simp] theorem State.drivePin_lineOut (s : State) (a b : Bool) : (s.drivePin a b).lineOut = b := rfl
@[simp] theorem State.drivePin_humidityO (s : State) (a b : Bool) : (s.drivePin a b).humidityO = s.humidityO := rfl
@[simp] theorem State.drivePin_stimulus (s : State) (a b : Bool) : (s.drivePin a b).stimulus = s.stimulus := rfl
@[simp] theorem State.drivePin_cycle (s : State) (a b : Bool) : (s.drivePin a b).cycle = s.cycle := rfl
@[simp] theorem State.drivePin_input (s : State) (a b : Bool) : (s.drivePin a b).input = s.input := rfl
@[simp] theorem State.drivePin_lineS (s : State) (a b : Bool) : (s.drivePin a b).lineS = s.lineS := rfl

@[simp] theorem State.driveHumidity_cfg (s : State) (h : Half) : (s.driveHumidity h).cfg = s.cfg := rfl
@[simp] theorem State.driveHumidity_state (s : State) (h : Half) : (s.driveHumidity h).state = s.state := rfl
@[simp] theorem State.driveHumidity_cnt (s : State) (h : Half) : (s.driveHumidity h).cnt = s.cnt := rfl
@[simp] theorem State.driveHumidity_bitIdx (s : State) (h : Half) : (s.driveHumidity h).bitIdx = s.bitIdx := rfl
@[simp] theorem State.driveHumidity_frame (s : State) (h : Half) : (s.driveHumidity h).frame = s.frame := rfl
@[simp] theorem State.driveHumidity_errCause (s : State) (h : Half) : (s.driveHumidity h).errCause = s.errCause := rfl
@[simp] theorem State.driveHumidity_sync (s : State) (h : Half) : (s.driveHumidity h).sync = s.sync := rfl
@[simp] theorem State.driveHumidity_lineOe (s : State) (h : Half) : (s.driveHumidity h).lineOe = s.lineOe := rfl
@[simp] theorem State.driveHumidity_lineOut (s : State) (h : Half) : (s.driveHumidity h).lineOut = s.lineOut := rfl
@[simp] theorem State.driveHumidity_humidityO (s : State) (h : Half) : (s.driveHumidity h).humidityO = h := rfl
@[simp] theorem State.driveHumidity_stimulus (s : State) (h : Half) : (s.driveHumidity h).stimulus = s.stimulus := rfl
@[simp] theorem State.driveHumidity_cycle (s : State) (h : Half) : (s.driveHumidity h).cycle = s.cycle := rfl
@[simp] theorem State.driveHumidity_input (s : State) (h : Half) : (s.driveHumidity h).input = s.input := rfl
@[simp] theorem State.driveHumidity_lineS (s : State) (h : Half) : (s.driveHumidity h).lineS = s.lineS := rfl

@[simp] theorem State.nextCycle_cfg (s : State) : s.nextCycle.cfg = s.cfg := rfl
@[simp] theorem State.nextCycle_state (s : State) : s.nextCycle.state = s.state := rfl
@[simp] theorem State.nextCycle_cnt (s : State) : s.nextCycle.cnt = s.cnt := rfl
@[simp] theorem State.nextCycle_bitIdx (s : State) : s.nextCycle.bitIdx = s.bitIdx := rfl
@[simp] theorem State.nextCycle_frame (s : State) : s.nextCycle.frame = s.frame := rfl
@[simp] theorem State.nextCycle_errCause (s : State) : s.nextCycle.errCause = s.errCause := rfl
@[simp] theorem State.nextCycle_sync (s : State) : s.nextCycle.sync = s.sync := rfl
@[simp] theorem State.nextCycle_lineOe (s : State) : s.nextCycle.lineOe = s.lineOe := rfl
@[simp] theorem State.nextCycle_lineOut (s : State) : s.nextCycle.lineOut = s.lineOut := rfl
@[simp] theorem State.nextCycle_humidityO (s : State) : s.nextCycle.humidityO = s.humidityO := rfl
@[simp] theorem State.nextCycle_stimulus (s : State) : s.nextCycle.stimulus = s.stimulus.tail := rfl
@[simp] theorem State.nextCycle_cycle (s : State) : s.nextCycle.cycle = s.cycle + 1 := rfl

@[simp] theorem State.withInput_cfg (s : State) (i : Input) : (s.withInput i).cfg = s.cfg := rfl
@[simp] theorem State.withInput_state (s : State) (i : Input) : (s.withInput i).state = s.state := rfl
@[simp] theorem State.withInput_cnt (s : State) (i : Input) : (s.withInput i).cnt = s.cnt := rfl
@[simp] theorem State.withInput_bitIdx (s : State) (i : Input) : (s.withInput i).bitIdx = s.bitIdx := rfl
@[simp] theorem State.withInput_frame (s : State) (i : Input) : (s.withInput i).frame = s.frame := rfl
@[simp] theorem State.withInput_errCause (s : State) (i : Input) : (s.withInput i).errCause = s.errCause := rfl
@[simp] theorem State.withInput_sync (s : State) (i : Input) : (s.withInput i).sync = s.sync := rfl
@[simp] theorem State.withInput_lineOe (s : State) (i : Input) : (s.withInput i).lineOe = s.lineOe := rfl
@[simp] theorem State.withInput_lineOut (s : State) (i : Input) : (s.withInput i).lineOut = s.lineOut := rfl
@[simp] theorem State.withInput_humidityO (s : State) (i : Input) : (s.withInput i).humidityO = s.humidityO := rfl
@[simp] theorem State.withInput_stimulus (s : State) (i : Input) : (s.withInput i).stimulus = i :: s.stimulus.tail := rfl
@[simp] theorem State.withInput_cycle (s : State) (i : Input) : (s.withInput i).cycle = s.cycle := rfl

@[simp] theorem State.resetWith_cfg (c : Config.Params) (inputs : List Input) : (State.resetWith c inputs).cfg = c := rfl
@[simp] theorem State.resetWith_state (c : Config.Params) (inputs : List Input) : (State.resetWith c inputs).state = 0 := rfl
@[simp] theorem State.resetWith_cnt (c : Config.Params) (inputs : List Input) : (State.resetWith c inputs).cnt = 0 := rfl
@[simp] theorem State.resetWith_bitIdx (c : Config.Params) (inputs : List Input) : (State.resetWith c inputs).bitIdx = 0 := rfl
@[simp] theorem State.resetWith_frame (c : Config.Params) (inputs : List Input) : (State.resetWith c inputs).frame = Frame.zero := rfl
@[simp] theorem State.resetWith_errCause (c : Config.Params) (inputs : List Input) : (State.resetWith c inputs).errCause = 0 := rfl
@[simp] theorem State.resetWith_sync (c : Config.Params) (inputs : List Input) : (State.resetWith c inputs).sync = List.replicate c.syncStages true := rfl
@[simp] theorem State.resetWith_lineOe (c : Config.Params) (inputs : List Input) : (State.resetWith c inputs).lineOe = false := rfl
@[simp] theorem State.resetWith_lineOut (c : Config.Params) (inputs : List Input) : (State.resetWith c inputs).lineOut = true := rfl
@[simp] theorem State.resetWith_humidityO (c : Config.Params) (inputs : List Input) : (State.resetWith c inputs).humidityO = 0 := rfl
@[simp] theorem State.resetWith_stimulus (c : Config.Params) (inputs : List Input) : (State.resetWith c inputs).stimulus = inputs := rfl
@[simp] theorem State.resetWith_cycle (c : Config.Params) (inputs : List Input) : (State.resetWith c inputs).cycle = 0 := rfl

@[simp] theorem State.withInput_input (s : State) (i : Input) : (s.withInput i).input = i := rfl

theorem State.shiftSync_eq (s : State) : s.shiftSync = { s with sync := shiftedSync s } := rfl

@[simp] theorem State.input_cons (s : State) (i : Input) (r : List Input) : ({ s with stimulus := i :: r } : State).input = i := rfl

end Sys2Proof.Machine
end

