-- ==== Sys2Proof/Laws/Ops.lean ====
section
/-! SUPPORT. For each shared operation, once, everything it can do: sequencing and gating, the frame store, the counter,
the await, the fixed delay, the poll and the sample. -/

namespace Sys2Proof.Machine

/-! ## Sequencing and gating -/

@[simp] theorem andThen_next (s : State) (f : State → Host.Outcome State Fault Refusal) :
    andThen (.next s) f = f s := rfl

@[simp] theorem andThen_fault (e : Fault) (f : State → Host.Outcome State Fault Refusal) :
    andThen (.fault e) f = .fault e := rfl

@[simp] theorem andThen_refused (e : Refusal) (f : State → Host.Outcome State Fault Refusal) :
    andThen (.refused e) f = .refused e := rfl

theorem andThen_eq_next {r : Host.Outcome State Fault Refusal} {f : State → Host.Outcome State Fault Refusal}
    {t : State} : andThen r f = .next t ↔ ∃ u, r = .next u ∧ f u = .next t := by
  cases r with
  | next u => simp
  | fault e => simp
  | refused e => simp

theorem guarded_of_ok {s : State} (h : ConfigOk s.cfg) (r : Host.Outcome State Fault Refusal) : guarded s r = r :=
  if_pos h

theorem guarded_of_bad {s : State} (h : ¬ ConfigOk s.cfg) (r : Host.Outcome State Fault Refusal) :
    guarded s r = .refused .badConfiguration := if_neg h

theorem guarded_eq_next {s t : State} {r : Host.Outcome State Fault Refusal} :
    guarded s r = .next t ↔ ConfigOk s.cfg ∧ r = .next t := by
  by_cases h : ConfigOk s.cfg
  · rw [guarded_of_ok h]
    exact ⟨fun hr => ⟨h, hr⟩, fun hr => hr.2⟩
  · rw [guarded_of_bad h]
    exact ⟨fun hr => (nomatch hr), fun hr => absurd hr.1 h⟩

theorem clocked_of_ok {s : State} (h : ConfigOk s.cfg) (r : Host.Outcome State Fault Refusal) :
    clocked s r = andThen r fun t => .next t.shiftSync := guarded_of_ok h _

theorem clocked_next {s : State} (h : ConfigOk s.cfg) (t : State) : clocked s (.next t) = .next t.shiftSync :=
  guarded_of_ok h _

theorem clocked_eq_next {s t : State} {r : Host.Outcome State Fault Refusal} :
    clocked s r = .next t ↔ ConfigOk s.cfg ∧ ∃ u, r = .next u ∧ t = u.shiftSync := by
  rw [clocked, guarded_eq_next, andThen_eq_next]
  simp [eq_comm]

/-! ## The frame store (R50) -/

theorem memRead_isSome (f : Frame) (k : Nat) : (memRead f k).isSome ↔ k < 5 := by
  unfold memRead
  split <;> simp_all
  omega

theorem memWrite_isSome (f : Frame) (k : Nat) (v : Byte) : (memWrite f k v).isSome ↔ k < 5 := by
  unfold memWrite
  split <;> simp_all
  omega

theorem memRead_memWrite_same {f g : Frame} {k : Nat} {v : Byte} (h : memWrite f k v = some g) :
    memRead g k = some v := by
  unfold memWrite at h
  split at h <;> first | (cases h; rfl) | cases h

theorem memRead_memWrite_other {f g : Frame} {k j : Nat} {v : Byte} (h : memWrite f k v = some g) (hj : j ≠ k) :
    memRead g j = memRead f j := by
  unfold memWrite at h
  split at h <;> first | (cases h; done) | (cases h; rcases j with _ | _ | _ | _ | _ | j <;> first | rfl | exact absurd rfl hj)

/-- A frame is its five bytes. -/
theorem frame_eq_of_memRead {f g : Frame} (h : ∀ k < 5, memRead f k = memRead g k) : f = g := by
  have h0 := h 0 (by omega)
  have h1 := h 1 (by omega)
  have h2 := h 2 (by omega)
  have h3 := h 3 (by omega)
  have h4 := h 4 (by omega)
  cases f; cases g
  simp_all [memRead]

/-! ## The counter (R24, R80) -/

/-- The least width holds the number it is computed from (P8). -/
theorem lt_two_pow_leastWidth (n : Nat) : n < 2 ^ leastWidth n := Nat.lt_log2_self

/-- Under R6, every bound the counter is compared with fits the counter. -/
theorem bound_fits {p : Config.Params} (h : ConfigOk p) {m : Nat} (hm : m ≤ counterMax p) : m - 1 < 2 ^ p.cntW := by
  obtain ⟨-, -, -, -, -, -, -, -, hw⟩ := h
  rw [hw]
  exact Nat.lt_of_le_of_lt (Nat.sub_le_sub_right hm 1) (lt_two_pow_leastWidth _)

theorem tStart_le_counterMax (p : Config.Params) : p.tStart ≤ counterMax p := by unfold counterMax; omega
theorem tRelease_le_counterMax (p : Config.Params) : p.tRelease ≤ counterMax p := by unfold counterMax; omega
theorem tSample_le_counterMax (p : Config.Params) : p.tSample ≤ counterMax p := by unfold counterMax; omega
theorem ackPollMax_le_counterMax (p : Config.Params) : p.ackPollMax ≤ counterMax p := by unfold counterMax; omega
theorem phasePollMax_le_counterMax (p : Config.Params) : p.phasePollMax ≤ counterMax p := by unfold counterMax; omega

/-- Below a bound of the configuration the count does not wrap. -/
theorem countUp_cnt_of_lt {s : State} (h : ConfigOk s.cfg) {m : Nat} (hm : m ≤ counterMax s.cfg)
    (hc : s.cnt + 1 < m) : s.countUp.cnt = s.cnt + 1 := by
  have := bound_fits h hm
  exact Nat.mod_eq_of_lt (by omega)

/-! ## The operations of the states -/

/-- R123, R127, R128: what an await can do. -/
theorem await_cases (s : State) (start : Bool) :
    (start = true ∧ s.await start = s.accept) ∨ (start = false ∧ s.await start = s) := by
  cases start
  · exact .inr ⟨rfl, rfl⟩
  · exact .inl ⟨rfl, rfl⟩

/-- R124, R125: what a fixed delay can do. -/
theorem hold_cases (s : State) (len : Nat) (code : BitVec 4) :
    (s.cnt = len - 1 ∧ s.hold len code = s.goto code) ∨ (s.cnt ≠ len - 1 ∧ s.hold len code = s.countUp) := by
  by_cases h : s.cnt = len - 1
  · exact .inl ⟨h, if_pos h⟩
  · exact .inr ⟨h, if_neg h⟩

/-- R126, R161 to R163: what a poll can do. -/
theorem poll_cases (s : State) (awaited : Bool) (bound : Nat) (code : BitVec 4) (c : Cause) :
    (s.lineS = awaited ∧ s.poll awaited bound code c = s.goto code) ∨
    (s.lineS ≠ awaited ∧ s.cnt = bound - 1 ∧ s.poll awaited bound code c = s.raise c) ∨
    (s.lineS ≠ awaited ∧ s.cnt ≠ bound - 1 ∧ s.poll awaited bound code c = s.countUp) := by
  by_cases h : s.lineS = awaited
  · exact .inl ⟨h, if_pos h⟩
  · by_cases hc : s.cnt = bound - 1
    · exact .inr (.inl ⟨h, hc, by rw [State.poll, if_neg h, if_pos hc]⟩)
    · exact .inr (.inr ⟨h, hc, by rw [State.poll, if_neg h, if_neg hc]⟩)

/-- Bit indices 0 to 39 lie in the frame store. -/
theorem byteIndex_lt {s : State} : s.byteIndex < 5 ↔ s.bitIdx.toNat < 40 := by
  unfold State.byteIndex
  omega

/-- R164: what a sample can do. -/
theorem sample_cases (s : State) :
    (s.bitIdx.toNat < 40 ∧ ∃ old f, memRead s.frame s.byteIndex = some old ∧
      memWrite s.frame s.byteIndex (shiftIn old s.lineS) = some f ∧
      ((s.bitIdx = 39 ∧ s.sample = .next ({ s with frame := f }.goto Code.done)) ∨
       (s.bitIdx ≠ 39 ∧ s.sample = .next ({ s with frame := f, bitIdx := s.bitIdx + 1 }.goto Code.bitWaitLow)))) ∨
    (40 ≤ s.bitIdx.toNat ∧ s.sample = .fault .noFrameByte) := by
  by_cases h : s.byteIndex < 5
  · obtain ⟨old, ho⟩ := Option.isSome_iff_exists.mp ((memRead_isSome s.frame _).mpr h)
    obtain ⟨f, hf⟩ := Option.isSome_iff_exists.mp ((memWrite_isSome s.frame _ (shiftIn old s.lineS)).mpr h)
    refine .inl ⟨byteIndex_lt.mp h, old, f, ho, hf, ?_⟩
    by_cases hb : s.bitIdx = 39
    · exact .inl ⟨hb, by simp only [State.sample, ho, hf, hb, if_true]⟩
    · exact .inr ⟨hb, by simp only [State.sample, ho, hf, hb, if_false]⟩
  · have hn : memRead s.frame s.byteIndex = none := by
      have := (memRead_isSome s.frame s.byteIndex).not.mpr h
      simpa using this
    exact .inr ⟨by have := byteIndex_lt (s := s); omega, by simp only [State.sample, hn]⟩

end Sys2Proof.Machine
end

