-- ==== Sys2Proof/Laws/PerInstr.lean ====
section
/-! SUPPORT. Statements made per instruction: the encoded word of a well-formed instruction fits its format and selects
the instruction's own row of the opcode table (30_encoding.md R70, R84). -/

namespace Sys2Proof.Laws.SelectsOwnRow

/-- The word of `i` fits the width of its format, and the rows of that format it selects are exactly `i`'s own row. -/
def Statement (i : Instr) : Prop :=
  WellFormed i → encode i < 2 ^ (formatOf i).width ∧
    ((rowsOf (formatOf i)).filter fun r => decide (r.Selects (encode i))).map Row.mnemonic = [mnemonicOf i]

theorem idle : Statement .idle := fun _ => by decide
theorem startPulse : Statement .startPulse := fun _ => by decide
theorem releaseLine : Statement .releaseLine := fun _ => by decide
theorem waitAck : Statement .waitAck := fun _ => by decide
theorem ackLow : Statement .ackLow := fun _ => by decide
theorem bitWaitLow : Statement .bitWaitLow := fun _ => by decide
theorem bitWaitHigh : Statement .bitWaitHigh := fun _ => by decide
theorem bitDelay : Statement .bitDelay := fun _ => by decide
theorem done : Statement .done := fun _ => by decide
theorem timedOut : Statement .timedOut := fun _ => by decide

theorem unused1011 (code : BitVec 4) : Statement (.unused1011 code) := by
  unfold Statement
  revert code
  decide

theorem unused1215 (code : BitVec 4) : Statement (.unused1215 code) := by
  unfold Statement
  revert code
  decide

theorem driveLow : Statement .driveLow := fun _ => by decide
theorem driveHigh : Statement .driveHigh := fun _ => by decide
theorem release : Statement .release := fun _ => by decide

theorem reset (start : Bool) : Statement (.reset start) := by
  cases start <;> exact fun _ => by decide

theorem nop : Statement .nop := fun _ => by decide
theorem read : Statement .read := fun _ => by decide
theorem humRaw : Statement .humRaw := fun _ => by decide
theorem humDiv10 : Statement .humDiv10 := fun _ => by decide

end Sys2Proof.Laws.SelectsOwnRow
end

