-- ==== Sys2Proof/Laws/Safety.lean ====
section
/-! SUPPORT. Lemmas of the bits received and of the counter's bounds, in which R33 is stated. -/

namespace Sys2Proof.Machine

/-- One more bit: R33's packed value doubles and takes the bit as its least significant. -/
theorem packedValue_append (a : List Bool) (b : Bool) :
    packedValue (a ++ [b]) = 2 * packedValue a + b.toNat := by
  induction a with
  | nil => cases b <;> simp [packedValue]
  | cons x r ih =>
    simp only [List.cons_append, packedValue, ih, List.length_append, List.length_cons, List.length_nil]
    cases x <;> simp <;> ring

/-- R165: the shift of a byte is 2 * byte + bit, mod 2^8. -/
theorem shiftIn_toNat (old : Byte) (b : Bool) : shiftIn old b = BitVec.ofNat 8 (2 * old.toNat + b.toNat) := by
  revert old b
  decide

/-- Shifting a bit into a packed byte. -/
theorem shiftIn_packed (n : Nat) (b : Bool) :
    shiftIn (BitVec.ofNat 8 n) b = BitVec.ofNat 8 (2 * n + b.toNat) := by
  rw [shiftIn_toNat]
  apply BitVec.eq_of_toNat_eq
  simp only [BitVec.toNat_ofNat]
  omega

/-- A new bit lands in the byte of its index (R51). -/
theorem byteBits_append_same (bits : List Bool) (b : Bool) (k : Nat) (h : bits.length / 8 = k) :
    byteBits (bits ++ [b]) k = byteBits bits k ++ [b] := by
  unfold byteBits
  rw [List.drop_append_of_le_length (by omega)]
  rw [List.take_of_length_le (by simp; omega), List.take_of_length_le (by simp; omega)]

/-- A new bit leaves every other byte alone. -/
theorem byteBits_append_other (bits : List Bool) (b : Bool) (k : Nat) (h : bits.length / 8 ≠ k) :
    byteBits (bits ++ [b]) k = byteBits bits k := by
  unfold byteBits
  by_cases hk : 8 * k ≤ bits.length
  · rw [List.drop_append_of_le_length hk, List.take_append_of_le_length (by simp; omega)]
  · rw [List.drop_of_length_le (by simp; omega), List.drop_of_length_le (by omega)]

/-- Nothing received is packed by the zero frame. -/
theorem received_nil {s : State} (hs : bitsSampled s = 0) (hf : s.frame = Frame.zero) : Received [] s := by
  refine ⟨hs.symm, ?_⟩
  rw [hf]
  intro k hk
  interval_cases k <;> rfl

/-- The bits received depend on the frame and on their number only. -/
theorem received_congr {bits : List Bool} {s t : State} (h : Received bits s) (hb : bitsSampled t = bitsSampled s)
    (hf : t.frame = s.frame) : Received bits t := ⟨hb ▸ h.1, hf ▸ h.2⟩

/-- A sample appends its bit to the bits received (R164, R165). -/
theorem received_sample {bits : List Bool} {s t : State} {old : Byte} {f : Frame} (h : Received bits s)
    (hs : s.state ≠ Code.done)
    (ho : memRead s.frame s.byteIndex = some old)
    (hw : memWrite s.frame s.byteIndex (shiftIn old s.lineS) = some f)
    (hf : t.frame = f) (hn : bitsSampled t = s.bitIdx.toNat + 1) : Received (bits ++ [s.lineS]) t := by
  obtain ⟨hl, hm⟩ := h
  have hl' : bits.length = s.bitIdx.toNat := by rw [hl, bitsSampled, bitsIn, if_neg hs]
  refine ⟨by simp [hl', hn], ?_⟩
  intro k hk
  rw [hf]
  by_cases e : k = s.byteIndex
  · subst e
    rw [memRead_memWrite_same hw, byteBits_append_same _ _ _ (by rw [hl']; rfl), packedValue_append]
    rw [hm _ hk] at ho
    cases ho
    rw [shiftIn_packed]
  · rw [memRead_memWrite_other hw e, hm k hk, byteBits_append_other _ _ _ (by rw [hl']; exact fun h => e h.symm)]

/-- Under R6 every state's bound is at least 1, so a restarted count is below it. -/
theorem cntBound_pos {p : Config.Params} (h : ConfigOk p) (c : BitVec 4) : 0 < cntBound p c := by
  obtain ⟨_, _, _, _, _, _, _⟩ := h
  unfold cntBound
  split <;> omega

/-- Under R6 every state's bound fits the counter. -/
theorem cntBound_le {p : Config.Params} (c : BitVec 4) (h : ConfigOk p): cntBound p c ≤ counterMax p := by
  obtain ⟨_, _, _, _, _, _, _⟩ := h
  unfold cntBound counterMax
  split <;> omega

/-- The packed value of some bits fits in as many bits. -/
theorem packedValue_lt (bits : List Bool) : packedValue bits < 2 ^ bits.length := by
  induction bits with
  | nil => decide
  | cons x r ih =>
    simp only [packedValue, List.length_cons, Nat.pow_succ]
    split <;> omega

/-- A byte of received bits is below 2 to their number in it. -/
theorem received_byte_lt {bits : List Bool} {s : State} {k : Nat} {v : Byte} (h : Received bits s) (hk : k < 5)
    (hv : memRead s.frame k = some v) : v.toNat < 2 ^ min (bitsSampled s - 8 * k) 8 := by
  rw [h.2 k hk] at hv
  cases hv
  have hl : (byteBits bits k).length = min (bitsSampled s - 8 * k) 8 := by
    simp [byteBits, h.1, Nat.min_comm]
  have := packedValue_lt (byteBits bits k)
  rw [BitVec.toNat_ofNat]
  exact Nat.lt_of_le_of_lt (Nat.mod_le _ _) (hl ▸ this)

/-- A frame of received bits fits (R33). -/
theorem frameFits_of_received {bits : List Bool} {s : State} (h : Received bits s) :
    FrameFits (bitsSampled s) s.frame :=
  ⟨received_byte_lt (k := 0) h (by decide) rfl, received_byte_lt (k := 1) h (by decide) rfl,
    received_byte_lt (k := 2) h (by decide) rfl, received_byte_lt (k := 3) h (by decide) rfl,
    received_byte_lt (k := 4) h (by decide) rfl⟩

/-- Every state of the invariant is legal. -/
theorem Invariant.legal {s : State} (h : Invariant s) : Legal s.state s :=
  ⟨h.cntBounded, h.bitIdxBounded, h.bitIdxBeforeBits, h.bitIdxDone, h.noCause, h.someCause,
    frameFits_of_received h.frameReceived.choose_spec⟩

/-- The chain after an arm and its shift (R160). -/
theorem shiftSync_sync (s : State) : s.shiftSync.sync = shiftedSync s := rfl

/-- One more step, taken first. -/
theorem steps_succ (n : Nat) (s : State) : steps (n + 1) s = andThen (step s) (steps n) := rfl

/-- Steps add up. -/
theorem steps_add (m n : Nat) (s : State) : steps (m + n) s = andThen (steps m s) (steps n) := by
  induction m generalizing s with
  | zero => rw [Nat.zero_add]; rfl
  | succ m ih =>
    rw [Nat.add_right_comm, steps_succ, steps_succ]
    cases h : step s with
    | next t => exact ih t
    | fault e => rfl
    | refused e => rfl

end Sys2Proof.Machine
end

