-- ==== Sys2Proof/Laws/Step.lean ====
section
/-! SUPPORT. What one step can do, said once: the settling of the outputs, the clock edge of each state, and the inversion
of `step` that invariants are derived from. -/

namespace Sys2Proof.Machine

/-- A state with its three written ports settled (R22, R71, R211). -/
def settledState (s : State) : State :=
  { s with
    lineOe := (pinCode s.state).getLsbD 1
    lineOut := (pinCode s.state).getLsbD 0
    humidityO := humidity s.input.cfgHumDiv10 s.frame }

@[simp] theorem settledState_cfg (s : State) : (settledState s).cfg = s.cfg := rfl
@[simp] theorem settledState_state (s : State) : (settledState s).state = s.state := rfl
@[simp] theorem settledState_cnt (s : State) : (settledState s).cnt = s.cnt := rfl
@[simp] theorem settledState_bitIdx (s : State) : (settledState s).bitIdx = s.bitIdx := rfl
@[simp] theorem settledState_frame (s : State) : (settledState s).frame = s.frame := rfl
@[simp] theorem settledState_errCause (s : State) : (settledState s).errCause = s.errCause := rfl
@[simp] theorem settledState_sync (s : State) : (settledState s).sync = s.sync := rfl
@[simp] theorem settledState_stimulus (s : State) : (settledState s).stimulus = s.stimulus := rfl
@[simp] theorem settledState_cycle (s : State) : (settledState s).cycle = s.cycle := rfl
@[simp] theorem settledState_input (s : State) : (settledState s).input = s.input := rfl
@[simp] theorem settledState_lineS (s : State) : (settledState s).lineS = s.lineS := rfl

theorem exec_variant {s : State} (h : ConfigOk s.cfg) (b : Bool) :
    exec (decodeVariant (BitVec.ofBool b)) s = .next (s.driveHumidity (humidity b s.frame)) := by
  cases b
  · exact guarded_of_ok h _
  · exact guarded_of_ok h _

/-- The settling of the outputs never stops under a configuration that meets R6. -/
theorem settle_eq {s : State} (h : ConfigOk s.cfg) : settle s = .next (settledState s) := by
  have key : ∀ (p : Instr) (oe out : Bool), decodePin (pinCode s.state) = .ok p →
      exec p s = .next (s.drivePin oe out) → (pinCode s.state).getLsbD 1 = oe → (pinCode s.state).getLsbD 0 = out →
      settle s = .next (settledState s) := by
    rintro p oe out hp he rfl rfl
    simp only [settle, hp, he, andThen_next]
    exact exec_variant (s := s.drivePin ((pinCode s.state).getLsbD 1) ((pinCode s.state).getLsbD 0)) h
      s.input.cfgHumDiv10
  have hd := decodePin_pinCode s.state
  have hc := pinCode_eq s.state
  by_cases h1 : s.state = Code.startPulse
  · rw [if_pos h1] at hd hc
    exact key _ true false hd (guarded_of_ok h _) (by rw [hc]; rfl) (by rw [hc]; rfl)
  · rw [if_neg h1] at hd hc
    by_cases h2 : s.state = Code.releaseLine ∨ s.state = Code.done
    · rw [if_pos h2] at hd hc
      exact key _ true true hd (guarded_of_ok h _) (by rw [hc]; rfl) (by rw [hc]; rfl)
    · rw [if_neg h2] at hd hc
      exact key _ false true hd (guarded_of_ok h _) (by rw [hc]; rfl) (by rw [hc]; rfl)

theorem edgeInstr_run {s : State} (h : s.input.rstN = true) : edgeInstr s = decodeState s.state := by
  simp [edgeInstr, h]

theorem edgeInstr_reset {s : State} (h : s.input.rstN = false) : edgeInstr s = .reset s.input.start := by
  simp only [edgeInstr, h, Input.control]
  cases s.input.start <;> rfl

/-- The state's row at the clock edge is the state's arm with this cycle's `start` (R120). -/
theorem exec_decodeState (s : State) : exec (decodeState s.state) s = clocked s (stateArm s.input.start s) := by
  unfold decodeState stateArm
  generalize s.state.toNat = n
  rcases n with _ | _ | _ | _ | _ | _ | _ | _ | _ | _ | _ | _ | n <;> rfl

/-- What the arm of a used state code can do besides refusing an illegal state. -/
theorem inLegal_eq_next {c : BitVec 4} {s u : State} {r : Host.Outcome State Fault Refusal} :
    inLegal c s r = .next u ↔ Legal c s ∧ r = .next u := by
  by_cases h : Legal c s
  · rw [inLegal, if_pos h]
    exact ⟨fun hr => ⟨h, hr⟩, fun hr => hr.2⟩
  · rw [inLegal, if_neg h]
    exact ⟨fun hr => (nomatch hr), fun hr => absurd hr.1 h⟩

theorem inLegal_of_legal {c : BitVec 4} {s : State} (h : Legal c s) (r : Host.Outcome State Fault Refusal) :
    inLegal c s r = r := if_pos h

theorem inLegal_of_illegal {c : BitVec 4} {s : State} (h : ¬ Legal c s) (r : Host.Outcome State Fault Refusal) :
    inLegal c s r = .refused .unreachableState := if_neg h

/-- What the arm of a used state code does in a legal state (R123 to R128, R161 to R164), the legality left aside. -/
def legalArm (b : Bool) (s : State) : Host.Outcome State Fault Refusal :=
  match s.state.toNat with
  | 1 => .next (s.hold s.cfg.tStart Code.releaseLine)
  | 2 => .next (s.hold s.cfg.tRelease Code.waitAck)
  | 3 => .next (s.poll false s.cfg.ackPollMax Code.ackLow .ackTimeout)
  | 4 => .next (s.poll true s.cfg.phasePollMax Code.bitWaitLow .ackEndTimeout)
  | 5 => .next (s.poll false s.cfg.phasePollMax Code.bitWaitHigh .bitTimeout)
  | 6 => .next (s.poll true s.cfg.phasePollMax Code.bitDelay .bitTimeout)
  | 7 => if s.cnt = s.cfg.tSample - 1 then s.sample else .next s.countUp
  | _ => .next (s.await b)

/-- Every used state code's arm is its pseudocode in the legal states. -/
theorem stateArm_used (b : Bool) {s : State} (h : s.state.toNat ≤ 9) :
    stateArm b s = inLegal s.state s (legalArm b s) := by
  rcases bitVec4_cases s.state with e | e | e | e | e | e | e | e | e | e | e
  case inr.inr.inr.inr.inr.inr.inr.inr.inr.inr => omega
  all_goals unfold stateArm legalArm; rw [e]; rfl

/-- The arm of the unused codes (R129). -/
theorem stateArm_unused (b : Bool) {s : State} (h : 10 ≤ s.state.toNat) : stateArm b s = .next (s.goto Code.idle) := by
  unfold stateArm
  split <;> first | rfl | omega

/-- In an illegal state every used state code's arm is refused (R33, U5). -/
theorem stateArm_illegal (b : Bool) {s : State} (h : s.state.toNat ≤ 9) (hl : ¬ Legal s.state s) :
    stateArm b s = .refused .unreachableState := by
  rw [stateArm_used b h, inLegal_of_illegal hl]

/-- An arm answers a next state in legal states only, but for the recovery from the unused codes. -/
theorem stateArm_legal {b : Bool} {s u : State} (h : stateArm b s = .next u) (h9 : s.state.toNat ≤ 9) :
    Legal s.state s := by
  rw [stateArm_used b h9] at h
  exact (inLegal_eq_next.mp h).1

/-- Everything the arm of a state can do when it answers a next state (R120). -/
theorem stateArm_cases {b : Bool} {s u : State} (h : stateArm b s = .next u) :
    (Waiting s ∧ u = s.await b) ∨
    (s.state = Code.startPulse ∧ u = s.hold s.cfg.tStart Code.releaseLine) ∨
    (s.state = Code.releaseLine ∧ u = s.hold s.cfg.tRelease Code.waitAck) ∨
    (s.state = Code.waitAck ∧ u = s.poll false s.cfg.ackPollMax Code.ackLow .ackTimeout) ∨
    (s.state = Code.ackLow ∧ u = s.poll true s.cfg.phasePollMax Code.bitWaitLow .ackEndTimeout) ∨
    (s.state = Code.bitWaitLow ∧ u = s.poll false s.cfg.phasePollMax Code.bitWaitHigh .bitTimeout) ∨
    (s.state = Code.bitWaitHigh ∧ u = s.poll true s.cfg.phasePollMax Code.bitDelay .bitTimeout) ∨
    (s.state = Code.bitDelay ∧ s.cnt ≠ s.cfg.tSample - 1 ∧ u = s.countUp) ∨
    (s.state = Code.bitDelay ∧ s.cnt = s.cfg.tSample - 1 ∧ s.sample = .next u) ∨
    (10 ≤ s.state.toNat ∧ u = s.goto Code.idle) := by
  by_cases h9 : s.state.toNat ≤ 9
  · rw [stateArm_used b h9] at h
    have h := (inLegal_eq_next.mp h).2
    rcases bitVec4_cases s.state with e | e | e | e | e | e | e | e | e | e | e
    · simp [legalArm, e] at h; exact .inl ⟨.inl e, h.symm⟩
    · simp [legalArm, e] at h; exact .inr (.inl ⟨e, h.symm⟩)
    · simp [legalArm, e] at h; exact .inr (.inr (.inl ⟨e, h.symm⟩))
    · simp [legalArm, e] at h; exact .inr (.inr (.inr (.inl ⟨e, h.symm⟩)))
    · simp [legalArm, e] at h; exact .inr (.inr (.inr (.inr (.inl ⟨e, h.symm⟩))))
    · simp [legalArm, e] at h; exact .inr (.inr (.inr (.inr (.inr (.inl ⟨e, h.symm⟩)))))
    · simp [legalArm, e] at h; exact .inr (.inr (.inr (.inr (.inr (.inr (.inl ⟨e, h.symm⟩))))))
    · have h : (if s.cnt = s.cfg.tSample - 1 then s.sample else .next s.countUp) = .next u := by
        simpa [legalArm, e] using h
      split at h
      · exact .inr (.inr (.inr (.inr (.inr (.inr (.inr (.inr (.inl ⟨e, ‹_›, h⟩))))))))
      · cases h
        exact .inr (.inr (.inr (.inr (.inr (.inr (.inr (.inl ⟨e, ‹_›, rfl⟩)))))))
    · simp [legalArm, e] at h; exact .inl ⟨.inr (.inl e), h.symm⟩
    · simp [legalArm, e] at h; exact .inl ⟨.inr (.inr e), h.symm⟩
    · omega
  · have h9 : 10 ≤ s.state.toNat := by omega
    rw [stateArm_unused b h9] at h
    cases h
    exact .inr (.inr (.inr (.inr (.inr (.inr (.inr (.inr (.inr ⟨h9, rfl⟩))))))))

/-- An arm leaves the configuration, the input vectors, the cycle number, the chain and the ports alone. -/
theorem stateArm_frame {b : Bool} {s u : State} (h : stateArm b s = .next u) :
    u.cfg = s.cfg ∧ u.stimulus = s.stimulus ∧ u.cycle = s.cycle ∧ u.sync = s.sync ∧ u.lineOe = s.lineOe ∧
      u.lineOut = s.lineOut ∧ u.humidityO = s.humidityO := by
  rcases stateArm_cases h with ⟨-, rfl⟩ | ⟨-, rfl⟩ | ⟨-, rfl⟩ | ⟨-, rfl⟩ | ⟨-, rfl⟩ | ⟨-, rfl⟩ | ⟨-, rfl⟩ | ⟨-, -, rfl⟩ |
    ⟨-, -, q⟩ | ⟨-, rfl⟩
  · rcases await_cases s b with ⟨-, e⟩ | ⟨-, e⟩ <;> simp [e]
  · rcases hold_cases s s.cfg.tStart Code.releaseLine with ⟨-, e⟩ | ⟨-, e⟩ <;> rw [e] <;> simp
  · rcases hold_cases s s.cfg.tRelease Code.waitAck with ⟨-, e⟩ | ⟨-, e⟩ <;> rw [e] <;> simp
  iterate 4 · rcases poll_cases s _ _ _ _ with ⟨-, e⟩ | ⟨-, -, e⟩ | ⟨-, -, e⟩ <;> rw [e] <;> simp
  · simp
  · rcases sample_cases s with ⟨-, old, f, -, -, ⟨-, e⟩ | ⟨-, e⟩⟩ | ⟨-, e⟩ <;> rw [e] at q <;> cases q <;> simp [State.goto]
  · simp

/-- One step with `rst_n = 0` (R260). -/
theorem step_reset {s : State} (hc : ConfigOk s.cfg) (h : s.input.rstN = false) :
    step s = .next (settledState s.resetRegs.nextCycle) := by
  have : exec (edgeInstr s) s = .next s.resetRegs := by
    rw [edgeInstr_reset h]
    exact guarded_of_ok hc _
  rw [step, this, andThen_next, settle_eq (s := s.resetRegs.nextCycle) hc]

/-- One step with `rst_n = 1` whose arm answers a next state (R120). -/
theorem step_run {s u : State} (hc : ConfigOk s.cfg) (h : s.input.rstN = true)
    (ha : stateArm s.input.start s = .next u) : step s = .next (settledState u.shiftSync.nextCycle) := by
  have hu : ConfigOk u.cfg := (stateArm_frame ha).1 ▸ hc
  rw [step, edgeInstr_run h, exec_decodeState, ha, clocked_next hc, andThen_next,
    settle_eq (s := u.shiftSync.nextCycle) hu]

/-- What one step can do: it answers a next state only under a configuration that meets R6, and then it is a reset or
the arm of the state, the shift, the next cycle and the settling of the outputs. -/
theorem step_cases {s t : State} (h : step s = .next t) :
    ConfigOk s.cfg ∧
    ((s.input.rstN = false ∧ t = settledState s.resetRegs.nextCycle) ∨
     (s.input.rstN = true ∧ ∃ u, stateArm s.input.start s = .next u ∧ t = settledState u.shiftSync.nextCycle)) := by
  have hc : ConfigOk s.cfg := by
    rw [step, andThen_eq_next] at h
    obtain ⟨u, hu, -⟩ := h
    cases hr : s.input.rstN with
    | false =>
      rw [edgeInstr_reset hr] at hu
      exact (guarded_eq_next.mp hu).1
    | true =>
      rw [edgeInstr_run hr, exec_decodeState] at hu
      exact (clocked_eq_next.mp hu).1
  refine ⟨hc, ?_⟩
  cases hr : s.input.rstN with
  | false =>
    rw [step_reset hc hr] at h
    cases h
    exact .inl ⟨rfl, rfl⟩
  | true =>
    refine .inr ⟨rfl, ?_⟩
    cases ha : stateArm s.input.start s with
    | next u =>
      rw [step_run hc hr ha] at h
      cases h
      exact ⟨u, rfl, rfl⟩
    | fault e =>
      rw [step, edgeInstr_run hr, exec_decodeState, ha, clocked_of_ok hc] at h
      cases h
    | refused e =>
      rw [step, edgeInstr_run hr, exec_decodeState, ha, clocked_of_ok hc] at h
      cases h

/-- In a legal state, and in an unused code, an arm answers a next state. -/
theorem stateArm_next {s : State} (b : Bool) (h : s.state.toNat ≤ 9 → Legal s.state s) :
    ∃ u, stateArm b s = .next u := by
  by_cases h9 : s.state.toNat ≤ 9
  · have hl := h h9
    rw [stateArm_used b h9, inLegal_of_legal hl]
    unfold legalArm
    split <;> first | exact ⟨_, rfl⟩ | skip
    split
    · rcases sample_cases s with ⟨-, old, f, -, -, ⟨-, e⟩ | ⟨-, e⟩⟩ | ⟨hb, -⟩
      · exact ⟨_, e⟩
      · exact ⟨_, e⟩
      · have := hl.2.1
        omega
    · exact ⟨_, rfl⟩
  · exact ⟨_, stateArm_unused b (by omega)⟩

end Sys2Proof.Machine
end

