-- ==== Sys2Proof/Machine/Stimulus.lean ====
section
/-! DEFINITION. The stimulus notation of 30_encoding.md R83: a program's host part and line part, and the closed loop of
the block with the host and the line they describe. It is notation for inputs, not part of the block: no operation of
the block uses it. -/

namespace Sys2Proof.Machine

/-- One directive of a program's host part (R83). -/
inductive HostDirective where
  /-- `RESET n`. -/
  | resetFor (n : Nat)
  /-- `START`. -/
  | startOnce
  /-- `HOLD n`. -/
  | holdFor (n : Nat)
  /-- `HOLD_UNTIL s`, for the first of the given statuses. -/
  | holdUntil (statuses : List (BitVec 2))
  /-- `START_AT k`, an overlay on the cycle with that number. -/
  | startAt (k : Nat)
  /-- `CFG b`. -/
  | setVariant (b : Bool)
  deriving DecidableEq, Repr

/-- The per-bit segment lengths of `TIMING low=a h0=b h1=c` (R83). -/
structure BitTiming where
  low : Nat
  h0 : Nat
  h1 : Nat
  deriving DecidableEq, Repr

/-- One segment of a line block (R83). -/
inductive LineSegment where
  /-- `H n`. -/
  | high (n : Nat)
  /-- `L n`. -/
  | low (n : Nat)
  /-- `BYTES b0 b1 …` under a `TIMING`. -/
  | bytes (t : BitTiming) (bs : List Byte)
  deriving DecidableEq, Repr

/-- The pseudo-operation `READ`: `START` then `HOLD_UNTIL 10` or `HOLD_UNTIL 11`, whichever comes first (R83). -/
def readDirectives : List HostDirective := [.startOnce, .holdUntil [0b10, 0b11]]

/-- The pseudo-operation `IDLE_GAP t` (R83). -/
def idleGapDirectives (t : Nat) : List HostDirective := [.holdFor t]

/-- The line levels of one bit: `L n_low`, then `H n_h0` or `H n_h1` (R83). -/
def bitLevels (t : BitTiming) (b : Bool) : List Bool :=
  List.replicate t.low false ++ List.replicate (if b then t.h1 else t.h0) true

/-- The line levels of one byte, most significant bit first (R83). -/
def byteLevels (t : BitTiming) (v : Byte) : List Bool :=
  [7, 6, 5, 4, 3, 2, 1, 0].flatMap fun i => bitLevels t (v.getLsbD i)

/-- The line levels of a block, consecutive from its anchor (R83). -/
def segmentLevels : List LineSegment → List Bool
  | [] => []
  | .high n :: r => List.replicate n true ++ segmentLevels r
  | .low n :: r => List.replicate n false ++ segmentLevels r
  | .bytes t bs :: r => bs.flatMap (byteLevels t) ++ segmentLevels r

/-- What the host drives in a cycle with the given `status`: `rst_n`, `start`, `cfg_hum_div10`, and the directives
left for the next cycle. After its last directive a host goes on with `rst_n = 1, start = 0`. -/
def hostCycle (status : BitVec 2) (variant : Bool) :
    List HostDirective → Bool × Bool × Bool × List HostDirective
  | [] => (true, false, variant, [])
  | .setVariant b :: r => hostCycle status b r
  | .startAt _ :: r => hostCycle status variant r
  | .resetFor 0 :: r => hostCycle status variant r
  | .resetFor (n + 1) :: r => (false, false, variant, .resetFor n :: r)
  | .startOnce :: r => (true, true, variant, r)
  | .holdFor 0 :: r => hostCycle status variant r
  | .holdFor (n + 1) :: r => (true, false, variant, .holdFor n :: r)
  | .holdUntil ss :: r => (true, false, variant, if ss.contains status then r else .holdUntil ss :: r)

/-- The cycles of the `START_AT` overlays. -/
def startOverlays : List HostDirective → List Nat
  | [] => []
  | .startAt k :: r => k :: startOverlays r
  | _ :: r => startOverlays r

/-- The block with a host and a line environment in the middle of a program. -/
structure Bench where
  /-- The block. -/
  block : State
  /-- The host directives still to come. -/
  host : List HostDirective
  /-- The `START_AT` cycles. -/
  overlays : List Nat
  /-- The current `CFG` value. -/
  variant : Bool
  /-- The line blocks of the reads still to come, one per `@W`. -/
  blocks : List (List LineSegment)
  /-- The levels of the current line block still to come. -/
  levels : List Bool
  deriving DecidableEq, Repr

/-- A program at its first cycle, over a block in ResetState. -/
def Bench.start (c : Config.Params) (host : List HostDirective) (blocks : List (List LineSegment)) : Bench :=
  { block := State.resetWith c [], host := host, overlays := startOverlays host, variant := false
    blocks := blocks, levels := [] }

/-- The anchor `@W`: the first cycle in WAIT_ACK of a read loads that read's line block; a read with none sees no
sensor (R83). R83 gives one block per read and is silent on a read that is reset before WAIT_ACK: such a read uses up no
block, and the next read to enter WAIT_ACK takes it. DESIGN CHOICE, log entry 19. -/
def Bench.anchor (b : Bench) : Bench :=
  if b.block.state = Code.waitAck ∧ b.block.cnt = 0 then
    { b with levels := segmentLevels (b.blocks.headD []), blocks := b.blocks.tail }
  else b

/-- `line_in`: the read-back of the drive in Output mode, else the line part's level, else high (R83). -/
def Bench.lineLevel (b : Bench) : Bool :=
  if b.block.lineOe then b.block.lineOut else b.levels.headD true

/-- The input vector of this cycle, and the host's variant and directives after it. -/
def Bench.inputs (b : Bench) : Input × Bool × List HostDirective :=
  let (rstN, start, variant, host) := hostCycle (statusOf b.block.state) b.variant b.host
  (⟨rstN, start || b.overlays.contains b.block.cycle, variant, b.lineLevel⟩, variant, host)

/-- The block in this cycle with the cycle's input vector placed and its outputs settled (R22, R211). -/
def Bench.settled (b : Bench) : Host.Outcome State Fault Refusal :=
  settle { b.block with stimulus := [b.anchor.inputs.1] }

/-- One cycle of the closed loop: the input vector of the cycle, and the bench in the next cycle. -/
def Bench.cycle (b : Bench) : Option (Input × Bench) :=
  let a := b.anchor
  let (i, variant, host) := a.inputs
  match andThen b.settled step with
  | .next s => some (i, { a with block := s, host := host, variant := variant, levels := a.levels.tail })
  | _ => none

/-- `n` cycles of the closed loop: the format I words of the cycles and the bench after them. -/
def Bench.run : Nat → Bench → Option (List (BitVec 4) × Bench)
  | 0, b => some ([], b)
  | n + 1, b =>
    match b.cycle with
    | none => none
    | some (i, b') =>
      match Bench.run n b' with
      | none => none
      | some (ws, b'') => some (i.toWord :: ws, b'')

end Sys2Proof.Machine
end

