-- ==== Sys2Proof/Tests/Slice0.lean ====
section
/-! SUPPORT. The model's own tests: the words of 30_encoding.md decode to their rows, single steps give the vectors of
95_test_vectors.md (S5 and S6 with a frame R33 allows), and every obligation that has hypotheses has a witness that meets them. -/

namespace Sys2Proof.Tests

open Sys2Proof.Machine

/-! ## Helpers -/

/-- The outcome is a next state that passes the check. -/
def nextIs (r : Host.Outcome State Fault Refusal) (p : State → Bool) : Bool :=
  match r with
  | .next t => p t
  | _ => false

/-- A state written as 95_test_vectors.md section 0 writes it, under TC, with one input vector; the three settled ports
are left at their reset values. -/
def tc (code : BitVec 4) (cnt : Nat) (bit : BitVec 6) (err : BitVec 2) (f : Frame) (i : BitVec 4) : State :=
  { State.resetWith Config.testConfig [Input.ofWord i] with
    state := code, cnt := cnt, bitIdx := bit, errCause := err, frame := f }

/-- The same under TC2, with the two stages of the chain. -/
def tc2 (code : BitVec 4) (cnt : Nat) (bit : BitVec 6) (f : Frame) (chain : List Bool) (i : BitVec 4) : State :=
  { tc code cnt bit 0 f i with cfg := Config.testConfig2, sync := chain }

/-- The registers of a state are the given ones. -/
def regs (code : BitVec 4) (cnt : Nat) (bit : BitVec 6) (err : BitVec 2) (f : Frame) (t : State) : Bool :=
  t.state == code && t.cnt == cnt && t.bitIdx == bit && t.errCause == err && t.frame == f

def pattern : Frame := ⟨0x12, 0x34, 0x56, 0x78, 0x9A⟩

/-- What 7 received bits can leave in the frame, and what 38 can. -/
def firstBits : Frame := ⟨0x12, 0, 0, 0, 0⟩
def lateBits : Frame := ⟨0x12, 0x34, 0x56, 0x78, 0x1A⟩

/-! ## Well-formedness -/

theorem test_wf_refuses_code_outside_10_11 : ¬ WellFormed (.unused1011 0b1100) := by decide

theorem test_wf_refuses_code_outside_12_15 : ¬ WellFormed (.unused1215 0b1011) := by decide

theorem test_wf_accepts_unused_codes : WellFormed (.unused1011 0b1011) ∧ WellFormed (.unused1215 0b1101) := by decide

/-! ## Decoding: words written out from R71, R72, R74 and R76 -/

theorem test_decode_timing_states :
    decode .s 0b0000 = .ok .idle ∧ decode .s 0b0001 = .ok .startPulse ∧ decode .s 0b0010 = .ok .releaseLine ∧
    decode .s 0b0011 = .ok .waitAck ∧ decode .s 0b1000 = .ok .done ∧ decode .s 0b1001 = .ok .timedOut :=
  ⟨rfl, rfl, rfl, rfl, rfl, rfl⟩

theorem test_decode_sampling_states :
    decode .s 0b0100 = .ok .ackLow ∧ decode .s 0b0101 = .ok .bitWaitLow ∧ decode .s 0b0110 = .ok .bitWaitHigh ∧
    decode .s 0b0111 = .ok .bitDelay :=
  ⟨rfl, rfl, rfl, rfl⟩

theorem test_decode_unused_codes :
    decode .s 0b1010 = .ok (.unused1011 10) ∧ decode .s 0b1011 = .ok (.unused1011 11) ∧
    decode .s 0b1100 = .ok (.unused1215 12) ∧ decode .s 0b1111 = .ok (.unused1215 15) :=
  ⟨rfl, rfl, rfl, rfl⟩

theorem test_decode_pin_codes :
    decode .p 0b10 = .ok .driveLow ∧ decode .p 0b11 = .ok .driveHigh ∧ decode .p 0b01 = .ok .release ∧
    decode .p 0b00 = .error .reservedPinCode :=
  ⟨rfl, rfl, rfl, rfl⟩

theorem test_decode_control_codes :
    decode .c 0b00 = .ok (.reset false) ∧ decode .c 0b01 = .ok (.reset true) ∧ decode .c 0b10 = .ok .nop ∧
    decode .c 0b11 = .ok .read :=
  ⟨rfl, rfl, rfl, rfl⟩

theorem test_decode_variant_codes : decode .g 0b0 = .ok .humRaw ∧ decode .g 0b1 = .ok .humDiv10 := ⟨rfl, rfl⟩

/-- R73's example: `D×3` is three cycles with rst_n=1, start=1, cfg=0, line_in=1. -/
theorem test_stimulus_word_D : stimulusOf [(0xD, 3)] = List.replicate 3 ⟨true, true, false, true⟩ := by decide

theorem test_table_word_is_a_state_code : decodeTableWord 8 0b0111 = some .bitDelay := rfl

/-- Every state code placed for the next step is run by it. -/
theorem test_placed_word_runs :
    ∀ w ∈ List.range 16, nextIs (step (State.reset.withFetchWord 8 w)) (fun t => t.cycle == 1) = true := by decide

/-! ## Single steps: the vectors S1 to S39 -/

theorem test_S1_idle_holds :
    nextIs (step (tc 0 0 0 0 Frame.zero 0b1001)) (regs 0 0 0 0 Frame.zero) = true := by decide

theorem test_S2_idle_accepts :
    nextIs (step (tc 0 0 0 0 Frame.zero 0b1100))
      (fun t => regs 1 0 0 0 Frame.zero t && t.lineOe && !t.lineOut) = true := by decide

theorem test_S3_done_accepts :
    nextIs (step (tc 8 0 39 0 pattern 0b1101)) (regs 1 0 0 0 Frame.zero) = true := by decide

theorem test_S4_done_holds :
    nextIs (step (tc 8 0 39 0 pattern 0b1000))
      (fun t => regs 8 0 39 0 pattern t && t.lineOe && t.lineOut) = true := by decide

/-- S5 with a frame that 8 bits can leave: R33 excludes the vector's own frame (log entry 9). -/
theorem test_S5_timed_out_accepts :
    nextIs (step (tc 9 0 8 3 firstBits 0b1101)) (regs 1 0 0 0 Frame.zero) = true := by decide

/-- S6 with a frame that 8 bits can leave. -/
theorem test_S6_timed_out_holds :
    nextIs (step (tc 9 0 8 3 firstBits 0b1000))
      (fun t => regs 9 0 8 3 firstBits t && !t.lineOe && t.lineOut) = true := by decide

theorem test_S7_start_pulse_counts :
    nextIs (step (tc 1 0 0 0 Frame.zero 0b1100)) (regs 1 1 0 0 Frame.zero) = true := by decide

theorem test_S8_start_pulse_ends :
    nextIs (step (tc 1 2 0 0 Frame.zero 0b1001))
      (fun t => regs 2 0 0 0 Frame.zero t && t.lineOe && t.lineOut) = true := by decide

theorem test_S9_release_line_counts :
    nextIs (step (tc 2 0 0 0 Frame.zero 0b1000)) (regs 2 1 0 0 Frame.zero) = true := by decide

theorem test_S10_release_line_ends :
    nextIs (step (tc 2 1 0 0 Frame.zero 0b1101))
      (fun t => regs 3 0 0 0 Frame.zero t && !t.lineOe && t.lineOut) = true := by decide

theorem test_S13_wait_ack_detects_on_last_poll :
    nextIs (step (tc 3 3 0 0 Frame.zero 0b1000)) (regs 4 0 0 0 Frame.zero) = true := by decide

theorem test_S14_wait_ack_times_out :
    nextIs (step (tc 3 3 0 0 Frame.zero 0b1001)) (regs 9 0 0 1 Frame.zero) = true := by decide

theorem test_S17_ack_low_ends_on_last_poll :
    nextIs (step (tc 4 5 0 0 Frame.zero 0b1001)) (regs 5 0 0 0 Frame.zero) = true := by decide

theorem test_S18_ack_low_times_out :
    nextIs (step (tc 4 5 0 0 Frame.zero 0b1000)) (regs 9 0 0 2 Frame.zero) = true := by decide

theorem test_S20_bit_wait_low_polls :
    nextIs (step (tc 5 4 5 0 ⟨3, 0, 0, 0, 0⟩ 0b1001)) (regs 5 5 5 0 ⟨3, 0, 0, 0, 0⟩) = true := by decide

theorem test_S21_bit_wait_low_times_out :
    nextIs (step (tc 5 5 5 0 ⟨3, 0, 0, 0, 0⟩ 0b1001)) (regs 9 0 5 3 ⟨3, 0, 0, 0, 0⟩) = true := by decide

theorem test_S22_bit_wait_high_finds_rise :
    nextIs (step (tc 6 0 5 0 ⟨3, 0, 0, 0, 0⟩ 0b1001)) (regs 7 0 5 0 ⟨3, 0, 0, 0, 0⟩) = true := by decide

theorem test_S23_bit_wait_high_times_out :
    nextIs (step (tc 6 5 5 0 ⟨3, 0, 0, 0, 0⟩ 0b1000)) (regs 9 0 5 3 ⟨3, 0, 0, 0, 0⟩) = true := by decide

theorem test_S27_first_sample_into_byte_1 :
    nextIs (step (tc 7 1 8 0 ⟨0x80, 0, 0, 0, 0⟩ 0b1001)) (regs 5 0 9 0 ⟨0x80, 0x01, 0, 0, 0⟩) = true := by decide

theorem test_S28_last_sample_is_done :
    nextIs (step (tc 7 1 39 0 ⟨1, 2, 3, 4, 0x7F⟩ 0b1001)) (regs 8 0 39 0 ⟨1, 2, 3, 4, 0xFF⟩) = true := by decide

theorem test_S30_code_12_recovers :
    nextIs (step (tc 12 3 7 2 pattern 0b1100)) (regs 0 0 7 2 pattern) = true := by decide

theorem test_S31_code_10_recovers :
    nextIs (step (tc 10 0 0 0 Frame.zero 0b1001)) (regs 0 0 0 0 Frame.zero) = true := by decide

theorem test_S33_reset_beats_request :
    nextIs (step (tc 8 0 39 0 pattern 0b0101))
      (fun t => regs 0 0 0 0 Frame.zero t && !t.lineOe && t.lineOut) = true := by decide

theorem test_S39_reset_sets_chain :
    nextIs (step (tc2 5 2 5 ⟨3, 0, 0, 0, 0⟩ [false, false] 0b0001))
      (fun t => regs 0 0 0 0 Frame.zero t && t.sync == [true, true]) = true := by decide

theorem test_S35_low_in_first_stage_only :
    nextIs (step (tc2 3 1 0 Frame.zero [false, true] 0b1000))
      (fun t => regs 3 2 0 0 Frame.zero t && t.sync == [false, false]) = true := by decide

theorem test_S38_sample_takes_last_stage :
    nextIs (step (tc2 7 1 5 ⟨3, 0, 0, 0, 0⟩ [false, true] 0b1000))
      (fun t => regs 5 0 6 0 ⟨7, 0, 0, 0, 0⟩ t && t.sync == [false, false]) = true := by decide

/-- S7 through the host's command: a request in START_PULSE is ignored. -/
theorem test_read_ignored_while_busy :
    nextIs (exec .read (tc 1 0 0 0 Frame.zero 0b1100)) (regs 1 1 0 0 Frame.zero) = true := by decide

/-- S3 through the host's command. -/
theorem test_read_accepted_in_done :
    nextIs (exec .read (tc 8 0 39 0 pattern 0b1101)) (regs 1 0 0 0 Frame.zero) = true := by decide

/-- S4 through the host's command. -/
theorem test_nop_keeps_done :
    nextIs (exec .nop (tc 8 0 39 0 pattern 0b1000)) (regs 8 0 39 0 pattern) = true := by decide

/-- O2, O3 and O1: the pin port after each pin operation. -/
theorem test_pin_operations :
    nextIs (exec .driveLow State.reset) (fun t => t.lineOe && !t.lineOut) = true ∧
    nextIs (exec .driveHigh State.reset) (fun t => t.lineOe && t.lineOut) = true ∧
    nextIs (exec .release (tc 0 0 0 0 Frame.zero 0b1001)) (fun t => !t.lineOe && t.lineOut) = true := by decide

/-! ## The interpreter: vectors I1, I4, I5, I6 and I9 -/

theorem test_I9_humidity_variants :
    nextIs (exec .humRaw (tc 8 0 39 0 ⟨0x02, 0x5D, 0xFF, 0xFF, 0x5A⟩ 0b1001)) (fun t => t.humidityO == 605) = true ∧
    nextIs (exec .humDiv10 (tc 8 0 39 0 ⟨0x02, 0x5D, 0xFF, 0xFF, 0x5A⟩ 0b1011)) (fun t => t.humidityO == 60) = true := by
  decide

theorem test_I1_reading :
    temperature ⟨0x02, 0x58, 0x80, 0x32, 0x0C⟩ = 0xFFCE ∧ checksum ⟨0x02, 0x58, 0x80, 0x32, 0x0C⟩ = 0x0C ∧
    checksumValid ⟨0x02, 0x58, 0x80, 0x32, 0x0C⟩ = true ∧ frameO ⟨0x02, 0x58, 0x80, 0x32, 0x0C⟩ = 0x025880320C := by
  decide

theorem test_I4_I5_I6_temperature_corners :
    temperature ⟨0, 0, 0x80, 0x00, 0x80⟩ = 0 ∧ temperature ⟨0xFF, 0xFF, 0xFF, 0xFF, 0xFC⟩ = 0x8001 ∧
    temperature ⟨0, 9, 0x7F, 0xFF, 0x88⟩ = 0x7FFF ∧ checksumValid ⟨0, 9, 0x7F, 0xFF, 0x88⟩ = false := by
  decide

/-! ## Configurations -/

theorem test_test_configurations_meet_R6 : ConfigOk Config.testConfig ∧ ConfigOk Config.testConfig2 := by decide

/-- R6's reference values at one cycle per microsecond. -/
theorem test_hardware_configuration :
    ConfigOk hardwareConfig ∧ WakesSensor hardwareConfig ∧ hardwareConfig.tStart = 2000 ∧
    hardwareConfig.tRelease = 40 ∧ hardwareConfig.tSample = 30 ∧ hardwareConfig.syncStages = 2 ∧
    State.reset.sync = [true, true] := by decide

/-- R81, R33 and U5: status 11 with no cause, a count beyond its bound and a frame that 8 bits cannot leave
are refused, but a reset leaves them. -/
theorem test_unreachable_states :
    step (tc 9 0 0 0 Frame.zero 0b1101) = .refused .unreachableState ∧
    step (tc 1 3 0 0 Frame.zero 0b1001) = .refused .unreachableState ∧
    step (tc 9 0 8 3 pattern 0b1101) = .refused .unreachableState ∧
    nextIs (step (tc 9 0 0 0 Frame.zero 0b0101)) (regs 0 0 0 0 Frame.zero) = true := ⟨rfl, rfl, rfl, by decide⟩

/-- One breach of each constraint of R6: TC with one parameter changed (P1 to P8 in order; CNT_W both ways). -/
theorem test_breaches_are_refused :
    ∀ p ∈ ([⟨0, 3, 2, 2, 4, 6, 0, 3, false⟩, ⟨1, 0, 2, 2, 4, 6, 0, 3, false⟩, ⟨1, 3, 0, 2, 4, 6, 0, 3, false⟩,
      ⟨1, 3, 2, 0, 4, 6, 0, 3, false⟩, ⟨1, 3, 2, 2, 0, 6, 0, 3, false⟩, ⟨1, 3, 2, 2, 6, 0, 0, 3, false⟩,
      ⟨1, 3, 2, 2, 4, 6, 3, 3, false⟩, ⟨1, 3, 2, 2, 2, 6, 2, 3, false⟩, ⟨1, 3, 2, 2, 4, 6, 0, 2, false⟩,
      ⟨1, 3, 2, 2, 4, 6, 0, 4, false⟩] : List Config.Params), ¬ ConfigOk p := by decide

/-! ## The stimulus notation (R83) -/

/-- Bit 0xA0's first three bits under P1's timing: 1, 0, 1. -/
theorem test_byte_levels :
    (byteLevels ⟨3, 1, 4⟩ 0xA0).take 18 =
      [false, false, false, true, true, true, true, false, false, false, true, false, false, false, true, true, true,
        true] := by decide

/-- Program P2's first four words: reset, the request, and the read-back of the start pulse. -/
theorem test_bench_words :
    (Bench.run 4 (Bench.start Config.testConfig (.resetFor 1 :: readDirectives) [])).map Prod.fst =
      some [0x1, 0xD, 0x8, 0x8] := by decide

/-! ## Witnesses: what meets the hypotheses of the obligations, clause by clause -/

/-- A state is in the invariant when its decidable parts hold and its frame packs the given bits. -/
theorem invariant_of {s : State} (bits : List Bool)
    (h : ConfigOk s.cfg ∧ s.state.toNat ≤ 9 ∧ s.cnt < cntBound s.cfg s.state ∧ s.bitIdx.toNat ≤ 39 ∧
      (s.state.toNat ≤ 4 → s.bitIdx = 0) ∧ (s.state = Code.done → s.bitIdx = 39))
    (he : (s.state ≠ Code.timedOut → s.errCause = 0) ∧ (s.state = Code.timedOut → s.errCause ≠ 0) ∧
      (s.errCause = Cause.ackTimeout.code ∨ s.errCause = Cause.ackEndTimeout.code → s.bitIdx = 0))
    (hr : bits.length = bitsSampled s ∧
      ∀ k < 5, memRead s.frame k = some (BitVec.ofNat 8 (packedValue (byteBits bits k))))
    (ho : s.sync.length = s.cfg.syncStages ∧
      (s.lineOe = (pinCode s.state).getLsbD 1 ∧ s.lineOut = (pinCode s.state).getLsbD 0) ∧
      s.humidityO = humidity s.input.cfgHumDiv10 s.frame) : Invariant s where
  configOk := h.1
  stateUsed := h.2.1
  cntBounded := h.2.2.1
  bitIdxBounded := h.2.2.2.1
  bitIdxBeforeBits := h.2.2.2.2.1
  bitIdxDone := h.2.2.2.2.2
  noCause := he.1
  someCause := he.2.1
  ackCauseBit := he.2.2
  frameReceived := ⟨bits, hr⟩
  syncLength := ho.1
  pinSettled := ho.2.1
  humiditySettled := ho.2.2

/-- Under TC, a state with the ports its pin code drives. -/
def tcPins (code : BitVec 4) (cnt : Nat) (bit : BitVec 6) (err : BitVec 2) (f : Frame) (i : BitVec 4) : State :=
  { tc code cnt bit err f i with lineOe := (pinCode code).getLsbD 1, lineOut := (pinCode code).getLsbD 0 }

theorem witness_DecodeInvertsEncode :
    decode .s 0b1111 = .ok (.unused1215 15) ∧ WellFormed (.unused1215 15) ∧ formatOf (.unused1215 15) = .s ∧
      encode (.unused1215 15) = 0b1111 := by decide

theorem witness_RowsDisjointAndCovering :
    (0 < 2 ^ Fmt.width .p ∧ 3 < 2 ^ Fmt.width .p ∧ decode .p 3 = .ok .driveHigh) ∧
    (15 < 2 ^ Fmt.width .s ∧ decode .s 15 = .ok (.unused1215 15)) := by decide

/-- Both ways to an instruction, and each of the three outcomes of `exec`. -/
theorem witness_StepRunsDecodedInstruction :
    ((tc 7 0 39 0 Frame.zero 0b1001).input.rstN = true ∧ decode .s (tc 7 0 39 0 Frame.zero 0b1001).state.toNat = .ok .bitDelay ∧
      nextIs (exec .bitDelay (tc 7 0 39 0 Frame.zero 0b1001)) (fun _ => true) = true) ∧
    (exec .bitDelay (tc 7 1 40 0 Frame.zero 0b1001) = .refused .unreachableState) ∧
    ((tc 7 1 39 0 Frame.zero 0b0101).input.rstN = false ∧
      nextIs (exec (.reset (tc 7 1 39 0 Frame.zero 0b0101).input.start) (tc 7 1 39 0 Frame.zero 0b0101)) (fun _ => true) = true) ∧
    exec .idle (State.resetWith { Config.testConfig with tStart := 0 } [Input.ofWord 0b1001]) =
      .refused .badConfiguration :=
  ⟨by decide, rfl, by decide, rfl⟩

theorem witness_BadConfigurationRefused :
    ¬ ConfigOk (State.resetWith { Config.testConfig with syncStages := 3 } []).cfg ∧
    (3 : Nat) > 2 ∧ 2 ^ 2 ≤ counterMax Config.testConfig - 1 := by decide

theorem witness_ResetGivesResetState :
    ConfigOk (tc 7 1 39 0 lateBits 0b0101).cfg ∧ (tc 7 1 39 0 lateBits 0b0101).input.rstN = false := by decide

theorem witness_ResetOutputs :
    ConfigOk (tc2 12 7 63 pattern [false, false] 0b0000).cfg ∧
    (tc2 12 7 63 pattern [false, false] 0b0000).input.rstN = false := by decide

theorem witness_InvariantAtReset : ConfigOk Config.testConfig2 := by decide

theorem witness_WaitingStatesAcceptOrHold :
    ConfigOk Config.testConfig ∧ Legal Code.done (tc 8 0 39 0 pattern 0b1101) ∧
    (tc 8 0 39 0 pattern 0b1101).input.start = true ∧ Legal Code.idle (tc 0 0 0 0 Frame.zero 0b1101) ∧
    Legal Code.timedOut (tc 9 0 8 3 firstBits 0b1001) ∧ (tc 9 0 8 3 firstBits 0b1001).input.start = false :=
  ⟨by decide, by decide, by decide, by decide, by decide, by decide⟩

/-- One breach of each clause of R33, in the row's own state and through NOP and READ. -/
theorem witness_UnreachableStatesRefused :
    ∀ s ∈ [tc 0 1 0 0 Frame.zero 0b1001, tc 1 3 0 0 Frame.zero 0b1001, tc 2 2 0 0 Frame.zero 0b1001,
        tc 3 4 0 0 Frame.zero 0b1001, tc 4 6 0 0 Frame.zero 0b1001, tc 6 6 0 0 Frame.zero 0b1001,
        tc 7 2 0 0 Frame.zero 0b1001, tc 5 0 40 0 Frame.zero 0b1001, tc 4 0 1 0 Frame.zero 0b1001,
        tc 8 0 38 0 pattern 0b1001, tc 8 0 39 1 pattern 0b1001, tc 9 0 8 0 Frame.zero 0b0001,
        tc 0 0 0 0 pattern 0b1001, tc 9 0 8 3 pattern 0b1001, tc 5 0 7 0 pattern 0b1001, tc 7 0 39 0 ⟨0, 0, 0, 0, 0x80⟩ 0b1001],
      ConfigOk s.cfg ∧ s.state.toNat ≤ 9 ∧ ¬ Legal s.state s := by decide

theorem witness_LegalFramesPackBits :
    (tc 7 1 38 0 lateBits 0b1001).bitIdx.toNat ≤ 39 ∧
    FrameFits (bitsSampled (tc 7 1 38 0 lateBits 0b1001)) lateBits ∧
    ¬ FrameFits (bitsSampled (tc 7 1 36 0 lateBits 0b1001)) lateBits := by decide

/-- The row in another state, the state itself, and reset. -/
theorem witness_CauselessTimeoutRefused :
    ConfigOk (tc 9 0 8 0 pattern 0b1101).cfg ∧ (tc 0 0 0 0 pattern 0b1101).errCause = 0 ∧
    ((tc 9 0 8 0 pattern 0b1101).errCause = 0 ∧ (tc 9 0 8 0 pattern 0b1101).state = Code.timedOut ∧
      (tc 9 0 8 0 pattern 0b1101).input.rstN = true) ∧
    (tc 9 0 8 0 pattern 0b0101).input.rstN = false := by decide

theorem witness_StartPulseHoldsThenReleases :
    ConfigOk (tc 1 2 0 0 Frame.zero 0b1001).cfg ∧ Legal Code.startPulse (tc 1 2 0 0 Frame.zero 0b1001) ∧
    Legal Code.startPulse (tc 1 1 0 0 Frame.zero 0b1001) ∧
    (tc 1 2 0 0 Frame.zero 0b1001).cnt = (tc 1 2 0 0 Frame.zero 0b1001).cfg.tStart - 1 ∧
    (tc 1 1 0 0 Frame.zero 0b1001).cnt ≠ (tc 1 1 0 0 Frame.zero 0b1001).cfg.tStart - 1 := by decide

theorem witness_ReleaseLineHoldsThenWaits :
    ConfigOk (tc 2 1 0 0 Frame.zero 0b1001).cfg ∧ Legal Code.releaseLine (tc 2 1 0 0 Frame.zero 0b1001) ∧
    Legal Code.releaseLine (tc 2 0 0 0 Frame.zero 0b1001) ∧
    (tc 2 1 0 0 Frame.zero 0b1001).cnt = (tc 2 1 0 0 Frame.zero 0b1001).cfg.tRelease - 1 ∧
    (tc 2 0 0 0 Frame.zero 0b1001).cnt ≠ (tc 2 0 0 0 Frame.zero 0b1001).cfg.tRelease - 1 := by decide

theorem witness_WaitAckDetectsTimesOutOrPolls :
    (∀ n ∈ [2, 3], ∀ w ∈ [0b1000#4, 0b1001#4], Legal Code.waitAck (tc 3 n 0 0 Frame.zero w)) ∧
    ConfigOk (tc 3 3 0 0 Frame.zero 0b1000).cfg ∧ (tc 3 3 0 0 Frame.zero 0b1000).lineS = false ∧
    ((tc 3 3 0 0 Frame.zero 0b1001).lineS = true ∧
      (tc 3 3 0 0 Frame.zero 0b1001).cnt = (tc 3 3 0 0 Frame.zero 0b1001).cfg.ackPollMax - 1) ∧
    ((tc 3 2 0 0 Frame.zero 0b1001).lineS = true ∧
      (tc 3 2 0 0 Frame.zero 0b1001).cnt ≠ (tc 3 2 0 0 Frame.zero 0b1001).cfg.ackPollMax - 1) :=
  ⟨by decide, by decide⟩

/-- The clauses of BIT_WAIT_LOW, whose awaited level is low. -/
theorem witness_BitWaitLowDetectsTimesOutOrPolls :
    (∀ n ∈ [4, 5], ∀ w ∈ [0b1000#4, 0b1001#4], Legal Code.bitWaitLow (tc 5 n 7 0 firstBits w)) ∧
    ConfigOk (tc 5 5 7 0 firstBits 0b1000).cfg ∧ (tc 5 5 7 0 firstBits 0b1000).lineS = false ∧
    ((tc 5 5 7 0 firstBits 0b1001).lineS = true ∧
      (tc 5 5 7 0 firstBits 0b1001).cnt = (tc 5 5 7 0 firstBits 0b1001).cfg.phasePollMax - 1) ∧
    ((tc 5 4 7 0 firstBits 0b1001).lineS = true ∧
      (tc 5 4 7 0 firstBits 0b1001).cnt ≠ (tc 5 4 7 0 firstBits 0b1001).cfg.phasePollMax - 1) :=
  ⟨by decide, by decide⟩

/-- The clauses of ACK_LOW and of BIT_WAIT_HIGH, whose awaited level is high. -/
theorem witness_AckLowAndBitWaitHigh :
    (∀ c ∈ [Code.ackLow, Code.bitWaitHigh], ∀ n ∈ [4, 5], ∀ w ∈ [0b1000#4, 0b1001#4],
      Legal c (tc c n 0 0 Frame.zero w)) ∧
    ∀ c ∈ [Code.ackLow, Code.bitWaitHigh],
      ConfigOk (tc c 5 0 0 Frame.zero 0b1001).cfg ∧ (tc c 5 0 0 Frame.zero 0b1001).lineS = true ∧
      ((tc c 5 0 0 Frame.zero 0b1000).lineS = false ∧
        (tc c 5 0 0 Frame.zero 0b1000).cnt = (tc c 5 0 0 Frame.zero 0b1000).cfg.phasePollMax - 1) ∧
      ((tc c 4 0 0 Frame.zero 0b1000).lineS = false ∧
        (tc c 4 0 0 Frame.zero 0b1000).cnt ≠ (tc c 4 0 0 Frame.zero 0b1000).cfg.phasePollMax - 1) :=
  ⟨by decide, by decide⟩

/-- Counting, a sample before the last bit, and the sample of the last bit. -/
theorem witness_BitDelayCountsThenSamples :
    ConfigOk (tc 7 0 38 0 lateBits 0b1001).cfg ∧
    (Legal Code.bitDelay (tc 7 0 38 0 lateBits 0b1001) ∧
      (tc 7 0 38 0 lateBits 0b1001).cnt ≠ (tc 7 0 38 0 lateBits 0b1001).cfg.tSample - 1) ∧
    (Legal Code.bitDelay (tc 7 1 38 0 lateBits 0b1001) ∧
      (tc 7 1 38 0 lateBits 0b1001).cnt = (tc 7 1 38 0 lateBits 0b1001).cfg.tSample - 1) ∧
    (Legal Code.bitDelay (tc 7 1 39 0 lateBits 0b1001) ∧
      (tc 7 1 39 0 lateBits 0b1001).cnt = (tc 7 1 39 0 lateBits 0b1001).cfg.tSample - 1) :=
  ⟨by decide, by decide, by decide, by decide⟩

theorem witness_SampleOutsideFrameRefused :
    ConfigOk (tc 7 1 40 0 Frame.zero 0b1001).cfg ∧ 40 ≤ (tc 7 1 40 0 Frame.zero 0b1001).bitIdx.toNat := by decide

theorem witness_UnusedCodesRecover :
    10 ≤ (10 : BitVec 4).toNat ∧ 10 ≤ (15 : BitVec 4).toNat ∧ ConfigOk (tc 12 3 7 2 pattern 0b1100).cfg := by decide

/-- The hypotheses of NOP and of READ. -/
theorem witness_NopAndRead :
    ConfigOk Config.testConfig ∧
    (Waiting (tc 9 0 8 3 firstBits 0b1101) ∧ Legal Code.timedOut (tc 9 0 8 3 firstBits 0b1101)) ∧
    (¬ Waiting (tc 7 1 39 0 lateBits 0b1101) ∧ Legal Code.bitDelay (tc 7 1 39 0 lateBits 0b1101)) ∧
    (¬ Waiting (tc 10 0 63 0 pattern 0b1101) ∧ ¬ (tc 10 0 63 0 pattern 0b1101).state.toNat ≤ 9) :=
  ⟨by decide, ⟨by decide, by decide⟩, ⟨by decide, by decide⟩, by decide⟩

/-- The hypotheses of the pin operations and of the humidity variants. -/
theorem witness_PortOperations : ConfigOk (tc 8 0 39 0 pattern 0b1011).cfg := by decide

theorem witness_FrameStoreReadsWhatWasWritten : (4 : Nat) ≤ 4 ∧ 5 ≤ (5 : Nat) := by decide

/-- A finished read of forty bits: 32 ones and 8 zeros. -/
def doneState : State := tcPins 8 0 39 0 ⟨0xFF, 0xFF, 0xFF, 0xFF, 0x00⟩ 0b1001

theorem witness_FirstBitIsMostSignificant :
    Received (List.replicate 32 true ++ List.replicate 8 false) doneState ∧
    (List.replicate 32 true ++ List.replicate 8 false).length = 40 := by
  unfold Received
  decide

/-- In the last cycle of BIT_DELAY of bit 1, after one 1 was received. -/
def samplingState : State := tcPins 7 1 1 0 ⟨1, 0, 0, 0, 0⟩ 0b1001

/-- In the last cycle of BIT_DELAY of bit 39, after 39 ones were received. -/
def lastSampleState : State :=
  { tcPins 7 1 39 0 ⟨0xFF, 0xFF, 0xFF, 0xFF, 0x7F⟩ 0b1000 with humidityO := 0xFFFF }

theorem witness_FrameIsLineSequence :
    ∃ t : State, Invariant lastSampleState ∧ Received (List.replicate 39 true) lastSampleState ∧
      steps 1 lastSampleState = .next t ∧ t.state = Code.done ∧
      bitsAfterSteps 1 (List.replicate 39 true) lastSampleState = List.replicate 39 true ++ [false] :=
  have h : Received (List.replicate 39 true) lastSampleState := by unfold Received; decide
  ⟨_, invariant_of (List.replicate 39 true) (by decide) (by decide) h (by decide), h, rfl, rfl, rfl⟩

theorem witness_samplingState_received : Received [true] { samplingState with humidityO := 0x0100 } := by
  unfold Received
  decide

theorem witness_samplingState_invariant : Invariant { samplingState with humidityO := 0x0100 } :=
  invariant_of [true] (by decide) (by decide) (by decide) (by decide)

/-- The hypotheses of StepKeepsInvariant and of FrameHoldsBitsReceived. -/
theorem witness_StepKeepsInvariant :
    ∃ s t : State, Invariant s ∧ Received [true] s ∧ step s = .next t ∧ bitsAfterEdge [true] s = [true, true] :=
  ⟨_, _, witness_samplingState_invariant, witness_samplingState_received, rfl, by decide⟩

theorem witness_ReachableStatesNeverStop :
    ∃ s : State, ConfigOk Config.testConfig ∧ Reachable Config.testConfig s ∧ s.state = Code.startPulse :=
  ⟨_, by decide, .next (.start [Input.ofWord 0b1101]) rfl, rfl⟩

/-- A state of IDLE with the given input vectors, under TC. -/
def idleState (inputs : List Input) : State := State.resetWith Config.testConfig inputs

theorem idleState_invariant (i : Input) (r : List Input) : Invariant (idleState (i :: r)) :=
  have h : Invariant (idleState []) := invariant_of [] (by decide) (by decide) (by decide) (by decide)
  invariant_of [] ⟨h.configOk, h.stateUsed, h.cntBounded, h.bitIdxBounded, h.bitIdxBeforeBits, h.bitIdxDone⟩
    ⟨h.noCause, h.someCause, h.ackCauseBit⟩
    ⟨rfl, (by decide : ∀ k < 5, memRead Frame.zero k = some (BitVec.ofNat 8 (packedValue (byteBits [] k))))⟩
    ⟨h.syncLength, h.pinSettled, (by decide : ∀ b, (0 : Half) = humidity b Frame.zero) i.cfgHumDiv10⟩

/-- A change of state, a count and a wait. -/
theorem witness_CounterRestartsWithEveryState :
    (∃ s t : State, Invariant s ∧ s.input.rstN = true ∧ step s = .next t ∧ t.state ≠ s.state) ∧
    (∃ s t : State, Invariant s ∧ s.input.rstN = true ∧ step s = .next t ∧ t.state = s.state ∧ Busy s) ∧
    (∃ s t : State, Invariant s ∧ s.input.rstN = true ∧ step s = .next t ∧ t.state = s.state ∧ Waiting s) :=
  ⟨⟨_, _, witness_samplingState_invariant, rfl, rfl, by decide⟩,
   ⟨tcPins 1 1 0 0 Frame.zero 0b1000, _, invariant_of [] (by decide) (by decide) (by decide) (by decide), rfl, rfl, rfl,
     by decide⟩,
   ⟨_, _, idleState_invariant (Input.ofWord 0b1001) [], rfl, rfl, rfl, .inl rfl⟩⟩

/-- A state a step begins, with a negative temperature, and one with a positive. -/
theorem witness_OutputsFollowRegisters :
    (∃ s t : State, step s = .next t ∧ t.frame.b2 = 0x80) ∧ (∃ s t : State, step s = .next t ∧ t.frame.b2 = 0x7F) :=
  ⟨⟨tc 8 0 39 0 ⟨1, 2, 0x80, 4, 5⟩ 0b1001, _, rfl, rfl⟩, ⟨tc 8 0 39 0 ⟨1, 2, 0x7F, 4, 5⟩ 0b1001, _, rfl, rfl⟩⟩

/-- Each of the four ways into TIMED_OUT. -/
theorem witness_TimeoutsArePrecise :
    ∀ s ∈ [tc 3 3 0 0 Frame.zero 0b1001, tc 4 5 0 0 Frame.zero 0b1000, tc 5 5 7 0 firstBits 0b1001,
        tc 6 5 39 0 lateBits 0b1000],
      nextIs (step s) (fun t => t.state == Code.timedOut) = true ∧ s.state ≠ Code.timedOut := by decide

/-- Reset, accept and hold, in DONE and in TIMED_OUT. -/
theorem witness_TerminalLeftOnlyByAcceptOrReset :
    ∀ w ∈ [0b0101#4, 0b1101#4, 0b1001#4], ∀ s ∈ [tc 8 0 39 0 pattern w, tc 9 0 39 3 lateBits w],
      Terminal s ∧ nextIs (step s) (fun _ => true) = true := by decide

theorem witness_DoneEnteredOnlyAfterLastSample :
    nextIs (step (tc 7 1 39 0 lateBits 0b1000)) (fun t => t.state == Code.done) = true ∧
    (tc 7 1 39 0 lateBits 0b1000).state ≠ Code.done ∧
    (ConfigOk (tc 7 1 39 0 lateBits 0b1000).cfg ∧ Legal Code.bitDelay (tc 7 1 39 0 lateBits 0b1000) ∧
      (tc 7 1 39 0 lateBits 0b1000).input.rstN = true ∧
      (tc 7 1 39 0 lateBits 0b1000).state = Code.bitDelay ∧
      (tc 7 1 39 0 lateBits 0b1000).cnt = (tc 7 1 39 0 lateBits 0b1000).cfg.tSample - 1 ∧
      (tc 7 1 39 0 lateBits 0b1000).bitIdx = 39) := by decide

/-- Reset, and each detection on the last allowed poll. -/
theorem witness_ResetThenDetectionHavePriority :
    ((tc 7 1 39 0 lateBits 0b0101).input.rstN = false ∧
      nextIs (step (tc 7 1 39 0 lateBits 0b0101)) (fun _ => true) = true) ∧
    (∀ s ∈ [tc 3 3 0 0 Frame.zero 0b1000, tc 5 5 39 0 lateBits 0b1000],
      s.input.rstN = true ∧ s.lineS = false ∧ nextIs (step s) (fun _ => true) = true) ∧
    (∀ s ∈ [tc 4 5 0 0 Frame.zero 0b1001, tc 6 5 39 0 lateBits 0b1001],
      s.input.rstN = true ∧ s.lineS = true ∧ nextIs (step s) (fun _ => true) = true) := by decide

theorem witness_RequestWhileBusyLeavesNoTrace :
    ¬ Waiting (tc 1 0 0 0 Frame.zero 0b1100) ∧ ¬ Waiting (tc 15 0 0 0 Frame.zero 0b1100) := by decide

/-- Each of the states that do not read the line. -/
theorem witness_LineUnreadOutsidePollsAndSample :
    ∀ s ∈ [tc2 0 0 0 Frame.zero [true, true] 0b1001, tc2 1 2 0 Frame.zero [true, true] 0b1000,
        tc2 2 1 0 Frame.zero [true, true] 0b1001, tc2 10 0 0 pattern [true, true] 0b1001, tc2 7 0 39 lateBits [true, true] 0b1001],
      (Waiting s ∨ s.state = Code.startPulse ∨ s.state = Code.releaseLine ∨ 10 ≤ s.state.toNat ∨
        (s.state = Code.bitDelay ∧ s.cnt ≠ s.cfg.tSample - 1)) ∧
      nextIs (step (s.withInput (Input.ofWord 0b1001))) (fun _ => true) = true ∧
      nextIs (step { s.withInput { Input.ofWord 0b1001 with lineIn := false } with sync := [false, true] })
        (fun _ => true) = true := by decide

/-- Two states of different operations whose steps leave the same frame, with the same variant. -/
theorem witness_ReadingDependsOnFrameAlone :
    ∃ s s' t t' : State, step s = .next t ∧ step s' = .next t' ∧ t.frame = t'.frame ∧ t.state ≠ t'.state ∧
      t.input.cfgHumDiv10 = t'.input.cfgHumDiv10 :=
  ⟨tc 8 0 39 0 firstBits 0b1001, tc 5 0 7 0 firstBits 0b1001, _, _, rfl, rfl, rfl, by decide, rfl⟩

theorem witness_TemperatureIsSignAndMagnitude :
    (⟨0, 0, 0x80, 0x00, 0⟩ : Frame).b2 = 0x80 ∧ (⟨0, 0, 0x80, 0x00, 0⟩ : Frame).b3 = 0x00 := by decide

/-- Vector I1's frame, with a bit of a summed byte wrong and with a bit of the checksum byte wrong. -/
theorem witness_SingleWrongBitIsDetected :
    checksumValid ⟨0x02, 0x58, 0x80, 0x32, 0x0C⟩ = true ∧
    frameO ⟨0x82, 0x58, 0x80, 0x32, 0x0C⟩ = frameO ⟨0x02, 0x58, 0x80, 0x32, 0x0C⟩ ^^^ BitVec.twoPow 40 39 ∧
    frameO ⟨0x02, 0x58, 0x80, 0x32, 0x0D⟩ = frameO ⟨0x02, 0x58, 0x80, 0x32, 0x0C⟩ ^^^ BitVec.twoPow 40 0 := by decide

theorem witness_EmptyFrameChecksumIsValid :
    ∃ s : State, Invariant s ∧ bitsSampled s = 0 :=
  ⟨_, idleState_invariant (Input.ofWord 0b1001) [], rfl⟩

/-- A chain of two after two shifts and after one, and an empty chain. -/
theorem witness_SynchroniserDelaysByItsDepth :
    (∃ t, steps 2 (State.resetWith Config.testConfig2 [Input.ofWord 0b1000, Input.ofWord 0b1001]) = .next t ∧
      (State.resetWith Config.testConfig2 []).sync ≠ [] ∧ (State.resetWith Config.testConfig2 []).sync.length ≤ 2) ∧
    (∃ t, steps 1 (State.resetWith Config.testConfig2 [Input.ofWord 0b1000, Input.ofWord 0b1001]) = .next t ∧
      (State.resetWith Config.testConfig2 []).sync = List.replicate 2 true) ∧
    (∃ t, steps 1 (idleState [Input.ofWord 0b1000]) = .next t ∧ (idleState [Input.ofWord 0b1000]).sync = []) :=
  ⟨⟨_, rfl, by decide, by decide⟩, ⟨_, rfl, by decide⟩, ⟨_, rfl, by decide⟩⟩

/-- A request followed by cycles with nothing. -/
def requestThen (n : Nat) : State := idleState (Input.ofWord 0b1101 :: List.replicate n (Input.ofWord 0b1001))

theorem requestThen_rstN (n : Nat) : ∀ i ∈ (requestThen n).stimulus, i.rstN = true := by
  intro i hi
  rcases List.mem_cons.mp hi with rfl | h
  · rfl
  · rw [List.eq_of_mem_replicate h]; rfl

theorem requestThen_length (n : Nat) : (requestThen n).stimulus.length = n + 1 := by
  show (List.replicate n _).length + 1 = n + 1
  rw [List.length_replicate]

/-- Under TC the sequence is 3 and 2 cycles: the first and last cycle of each clause. -/
theorem witness_StartSequenceTimingIsExact :
    Invariant (requestThen 5) ∧ Waiting (requestThen 5) ∧ (requestThen 5).input.start = true ∧
    (∀ i ∈ (requestThen 5).stimulus, i.rstN = true) ∧ 5 + 1 ≤ (requestThen 5).stimulus.length ∧
    (requestThen 5).cfg.tStart = 3 ∧ (requestThen 5).cfg.tRelease = 2 ∧
    ((2 : Nat) < 3 ∧ (3 : Nat) ≤ 3 ∧ (4 : Nat) < 3 + 2 ∧ (5 : Nat) = 3 + 2) :=
  ⟨idleState_invariant _ _, .inl rfl, rfl, requestThen_rstN 5, by rw [requestThen_length], rfl, rfl, by decide⟩

/-- The first cycle of RELEASE_LINE under TC2, with the start pulse's lows still in the chain. -/
theorem witness_StartPulseNeverTakenForAck :
    ∃ s : State, Invariant s ∧ s.state = Code.releaseLine ∧ s.cnt = 0 ∧ s.sync = [false, false] ∧
      s.cfg.tRelease ≤ s.stimulus.length ∧
      ∀ i ∈ s.stimulus.take s.cfg.tRelease, i.rstN = true ∧ i.lineIn = true :=
  ⟨{ tcPins 2 0 0 0 Frame.zero 0b1001 with
      cfg := Config.testConfig2, sync := [false, false], stimulus := [Input.ofWord 0b1001, Input.ofWord 0b1001] },
    invariant_of [] (by decide) (by decide) (by decide) (by decide), rfl, rfl, rfl, by decide, by decide⟩

/-- Under TC the bound is 576 cycles. -/
theorem witness_EveryReadEndsWithinBound :
    Invariant (requestThen 600) ∧ Waiting (requestThen 600) ∧ (requestThen 600).input.start = true ∧
    (∀ i ∈ (requestThen 600).stimulus, i.rstN = true) ∧
    (requestThen 600).cfg.tStart + (requestThen 600).cfg.tRelease + 1 + (requestThen 600).cfg.ackPollMax
      + (requestThen 600).cfg.phasePollMax
      + 40 * (2 * (requestThen 600).cfg.phasePollMax + (requestThen 600).cfg.tSample)
      ≤ (requestThen 600).stimulus.length :=
  ⟨idleState_invariant _ _, .inl rfl, rfl, requestThen_rstN 600, by
    rw [requestThen_length, show (requestThen 600).cfg = Config.testConfig from rfl]; decide⟩

/-- Forty bits 1, 0, 1, 0, …: a 1 with the shortest high level that is a 1 under TC (B1), a 0 with the least low period
after it (B4). -/
def sensorWaves : List BitWave := (List.replicate 20 [⟨3, 3⟩, ⟨3, 1⟩]).flatten

/-- What a sensor drives from WAIT_ACK on: 3 high cycles, the ack of 6 low and 1 high, the bits, 2 low cycles. -/
def sensorLevels : List Bool :=
  List.replicate 3 true ++ (List.replicate 6 false ++ (List.replicate 1 true ++
    (waveLevels sensorWaves ++ List.replicate 2 false)))

/-- A request, five cycles of the start sequence under TC, then the sensor's levels. -/
def sensorState : State :=
  idleState (Input.ofWord 0b1101 ::
    (List.replicate 5 (Input.ofWord 0b1001) ++ sensorLevels.map fun b => ⟨true, false, false, b⟩))

set_option maxRecDepth 4000 in
theorem witness_SensorFrameIsReceived :
    (Invariant sensorState ∧ Waiting sensorState ∧ sensorState.input.start = true ∧
      (∀ i ∈ sensorState.stimulus, i.rstN = true)) ∧
    sensorWaves.length = 40 ∧ 3 < sensorState.cfg.ackPollMax ∧ 6 ≤ sensorState.cfg.phasePollMax ∧
    1 ≤ nextLow 2 sensorWaves ∧ nextLow 2 sensorWaves ≤ sensorState.cfg.phasePollMax ∧
    wavesOk sensorState.cfg 2 sensorWaves = true ∧
    sensorLevels <+: (seenLine sensorState).drop (sensorState.cfg.tStart + sensorState.cfg.tRelease + 1) ∧
    sensorState.cfg.tStart + sensorState.cfg.tRelease + 1 + (3 + 6 + 1 + (waveLevels sensorWaves).length + 2)
      ≤ sensorState.stimulus.length :=
  ⟨⟨idleState_invariant _ _, .inl rfl, rfl, List.all_eq_true.mp (rfl : sensorState.stimulus.all Input.rstN = true)⟩,
    rfl, by decide, by decide, by decide, by decide, rfl, ⟨[], rfl⟩, Nat.le_of_ble_eq_true rfl⟩

end Sys2Proof.Tests
end

section
/-! PROOFS. The scope (00_scope.md R6, R7): a configuration that breaks a constraint has no meaning. -/

namespace Sys2Proof.Machine

/-- Every instruction is gated by the check of the configuration (R7). -/
theorem exec_eq_guarded (i : Instr) (s : State) : ∃ r, exec i s = guarded s r := by
  cases i <;> exact ⟨_, rfl⟩

theorem exec_of_bad {s : State} (h : ¬ ConfigOk s.cfg) (i : Instr) : exec i s = .refused .badConfiguration := by
  obtain ⟨r, hr⟩ := exec_eq_guarded i s
  rw [hr, guarded_of_bad h]

/-- The instruction at the clock edge is refused, and its stop is the step's. -/
theorem step_of_bad {s : State} (h : ¬ ConfigOk s.cfg) : step s = .refused .badConfiguration := by
  rw [step, exec_of_bad h, andThen_refused]

/-- R267 is no constraint of R6: TC starts a read with a pulse of 3 cycles at 1 cycle per microsecond. -/
theorem testConfig_ok_not_wakesSensor : ConfigOk Config.testConfig ∧ ¬ WakesSensor Config.testConfig := by decide

/-- Settles O7: every instruction is gated by the check, each listed breach contradicts a clause of it (for P8, that
every bound fits the counter), and TC passes it with a pulse that wakes no sensor. -/
theorem badConfigurationRefused : Obligations.BadConfigurationRefused := by
  unfold Obligations.BadConfigurationRefused
  refine ⟨fun i s h => ⟨exec_of_bad h i, step_of_bad h⟩, fun p breach hok => ?_,
    Config.testConfig, testConfig_ok_not_wakesSensor⟩
  have fits : counterMax p - 1 < 2 ^ p.cntW := bound_fits hok le_rfl
  obtain ⟨-, hStart, hRelease, hSample, hAck, hPhase, hSyncRelease, hSyncAck, -⟩ := hok
  rcases breach with h | h | h | h | h | h | h | h <;> omega

end Sys2Proof.Machine
end

section
/-! PROOFS. What the arm of a used state code can do, in named moves, and the bits received across one step (10_state.md
R33, 42_bit_sample_synchronizer.md R164, R165). -/

namespace Sys2Proof.Machine

/-- What the arm of a used state code does to `s` when it answers a next state, move by move: the states are numbered in
the order a read passes them, so every change of state but a time-out and the sample goes to the next code. -/
inductive ArmMove (start : Bool) (s : State) : State → Prop where
  /-- R121. -/
  | accept (waiting : Waiting s) (requested : start = true) : ArmMove start s s.accept
  /-- R123, R127, R128. -/
  | stay (waiting : Waiting s) (quiet : start = false) : ArmMove start s s
  /-- R130: a state goes on counting before its last cycle or poll. -/
  | count (busy : Busy s) (early : s.cnt ≠ cntBound s.cfg s.state - 1) : ArmMove start s s.countUp
  /-- R124 to R126, R161 to R163. -/
  | advance (busy : Busy s) (beforeDelay : s.state.toNat ≤ 6) : ArmMove start s (s.goto (s.state + 1))
  /-- R231 to R233. -/
  | timeOut (c : Cause) (polling : 3 ≤ s.state.toNat ∧ s.state.toNat ≤ 6)
      (ackPhase : c ≠ .bitTimeout → s.state.toNat ≤ 4) : ArmMove start s (s.raise c)
  /-- R164, bits 0 to 38. -/
  | sampleMore {old : Byte} {f : Frame} (inDelay : s.state = Code.bitDelay) (last : s.cnt = s.cfg.tSample - 1)
      (read : memRead s.frame s.byteIndex = some old)
      (written : memWrite s.frame s.byteIndex (shiftIn old s.lineS) = some f) (bit : s.bitIdx.toNat < 39) :
      ArmMove start s ({ s with frame := f, bitIdx := s.bitIdx + 1 }.goto Code.bitWaitLow)
  /-- R164, bit 39. -/
  | sampleLast {old : Byte} {f : Frame} (inDelay : s.state = Code.bitDelay) (last : s.cnt = s.cfg.tSample - 1)
      (read : memRead s.frame s.byteIndex = some old)
      (written : memWrite s.frame s.byteIndex (shiftIn old s.lineS) = some f) (bit : s.bitIdx = 39) :
      ArmMove start s ({ s with frame := f }.goto Code.done)

theorem armMove_await {s : State} (b : Bool) (h : Waiting s) : ArmMove b s (s.await b) := by
  rcases await_cases s b with ⟨hb, e⟩ | ⟨hb, e⟩ <;> rw [e]
  · exact .accept h hb
  · exact .stay h hb

theorem armMove_hold {s : State} (b : Bool) {len : Nat} {code : BitVec 4} (hlen : cntBound s.cfg s.state = len)
    (hcode : s.state + 1 = code) (h : 1 ≤ s.state.toNat ∧ s.state.toNat ≤ 2) : ArmMove b s (s.hold len code) := by
  subst hlen hcode
  rcases hold_cases s (cntBound s.cfg s.state) (s.state + 1) with ⟨-, e⟩ | ⟨hc, e⟩ <;> rw [e]
  · exact .advance ⟨h.1, by omega⟩ (by omega)
  · exact .count ⟨h.1, by omega⟩ hc

theorem armMove_poll {s : State} (b : Bool) {awaited : Bool} {bound : Nat} {code : BitVec 4} {c : Cause}
    (hbound : cntBound s.cfg s.state = bound) (hcode : s.state + 1 = code)
    (h : 3 ≤ s.state.toNat ∧ s.state.toNat ≤ 6) (hc : c ≠ .bitTimeout → s.state.toNat ≤ 4) :
    ArmMove b s (s.poll awaited bound code c) := by
  subst hbound hcode
  rcases poll_cases s awaited (cntBound s.cfg s.state) (s.state + 1) c with ⟨-, e⟩ | ⟨-, -, e⟩ | ⟨-, hn, e⟩ <;> rw [e]
  · exact .advance ⟨by omega, by omega⟩ h.2
  · exact .timeOut c h hc
  · exact .count ⟨by omega, by omega⟩ hn

theorem armMove_sample {s u : State} (b : Bool) (hs : s.state = Code.bitDelay) (hc : s.cnt = s.cfg.tSample - 1)
    (h : s.sample = .next u) : ArmMove b s u := by
  rcases sample_cases s with ⟨hb, old, f, ho, hf, ⟨h39, e⟩ | ⟨h39, e⟩⟩ | ⟨-, e⟩ <;> rw [e] at h <;> cases h
  · exact .sampleLast hs hc ho hf h39
  · exact .sampleMore hs hc ho hf (by bv_omega)

/-- Every next state of a used state code's arm is one of the moves. -/
theorem armMove_of_stateArm {b : Bool} {s u : State} (h9 : s.state.toNat ≤ 9) (h : stateArm b s = .next u) :
    ArmMove b s u := by
  rcases stateArm_cases h with ⟨hw, rfl⟩ | ⟨e, rfl⟩ | ⟨e, rfl⟩ | ⟨e, rfl⟩ | ⟨e, rfl⟩ | ⟨e, rfl⟩ | ⟨e, rfl⟩ |
    ⟨e, hc, rfl⟩ | ⟨e, hc, hs⟩ | ⟨hu, -⟩
  case inr.inr.inr.inr.inr.inr.inr.inr.inr => omega
  case inl => exact armMove_await b hw
  case inr.inr.inr.inr.inr.inr.inr.inr.inl => exact armMove_sample b e hc hs
  case inr.inr.inr.inr.inr.inr.inr.inl => exact .count (by rw [Busy, e]; decide) (by rw [e]; exact hc)
  case inr.inl => exact armMove_hold b (by rw [e]; rfl) (by rw [e]; rfl) (by rw [e]; decide)
  case inr.inr.inl => exact armMove_hold b (by rw [e]; rfl) (by rw [e]; rfl) (by rw [e]; decide)
  all_goals exact armMove_poll b (by rw [e]; rfl) (by rw [e]; rfl) (by rw [e]; decide) (by rw [e]; decide)

theorem not_waiting_of_busy {s : State} (h : Busy s) : ¬ Waiting s := by
  rintro (e | e | e) <;> rw [Busy, e] at h <;> exact absurd h (by decide)

/-! The bits received once a clock edge has passed, case by case of `bitsAfterEdge`. -/

theorem bitsAfterEdge_reset {s : State} (bits : List Bool) (hr : s.input.rstN = false) : bitsAfterEdge bits s = [] :=
  if_pos hr

theorem bitsAfterEdge_accept {s : State} (bits : List Bool) (hw : Waiting s) (hb : s.input.start = true) :
    bitsAfterEdge bits s = [] := by
  have h : Waiting s ∧ s.input.start = true := ⟨hw, hb⟩
  rw [bitsAfterEdge, if_pos h, ite_self]

theorem bitsAfterEdge_sample {s : State} (bits : List Bool) (hr : s.input.rstN = true) (hs : s.state = Code.bitDelay)
    (hc : s.cnt = s.cfg.tSample - 1) : bitsAfterEdge bits s = bits ++ [s.lineS] := by
  have hw : ¬ Waiting s := not_waiting_of_busy (by rw [Busy, hs]; decide)
  rw [bitsAfterEdge, if_neg (by simp [hr]), if_neg (hw ·.1), if_pos ⟨hs, hc⟩]

theorem bitsAfterEdge_keep {s : State} (bits : List Bool) (hr : s.input.rstN = true)
    (hw : Waiting s → s.input.start = false) (hs : s.state = Code.bitDelay → s.cnt ≠ s.cfg.tSample - 1) :
    bitsAfterEdge bits s = bits := by
  rw [bitsAfterEdge, if_neg (by simp [hr]), if_neg (fun h => by simp [hw h.1] at h), if_neg (fun h => hs h.1 h.2)]

theorem bitsAfterEdge_busy {s : State} (bits : List Bool) (hr : s.input.rstN = true) (hb : Busy s)
    (hs : s.state = Code.bitDelay → s.cnt ≠ s.cfg.tSample - 1) : bitsAfterEdge bits s = bits :=
  bitsAfterEdge_keep bits hr (fun hw => absurd hw (not_waiting_of_busy hb)) hs

theorem bitsSampled_of_not_done {s : State} (h : s.state ≠ Code.done) : bitsSampled s = s.bitIdx.toNat := if_neg h

/-- A move between states other than DONE that leaves the bit index and the frame alone keeps the bits received. -/
theorem received_move {bits : List Bool} {s t : State} (h : Received bits s) (hs : s.state ≠ Code.done)
    (ht : t.state ≠ Code.done) (hb : t.bitIdx = s.bitIdx) (hf : t.frame = s.frame) : Received bits t :=
  received_congr h (by rw [bitsSampled_of_not_done hs, bitsSampled_of_not_done ht, hb]) hf

/-- R33, R165: the arm of a used state code leaves in the frame the bits received once its clock edge has passed. -/
theorem received_armMove {bits : List Bool} {s u : State} (h : Received bits s) (hr : s.input.rstN = true)
    (hm : ArmMove s.input.start s u) : Received (bitsAfterEdge bits s) u := by
  cases hm with
  | accept hw hb =>
    rw [bitsAfterEdge_accept bits hw hb]
    exact received_nil rfl rfl
  | stay hw hb =>
    rw [bitsAfterEdge_keep bits hr (fun _ => hb)
      (fun hs => absurd hw (not_waiting_of_busy (by rw [Busy, hs]; decide)))]
    exact h
  | count hb hc =>
    rw [bitsAfterEdge_busy bits hr hb (fun hs => by rw [hs] at hc; exact hc)]
    exact received_congr h rfl rfl
  | advance hb h6 =>
    rw [bitsAfterEdge_busy bits hr hb (fun hs => by rw [hs] at h6; exact absurd h6 (by decide))]
    exact received_move h (by bv_omega) (by simp only [State.goto_state]; bv_omega) rfl rfl
  | timeOut c hp _ =>
    rw [bitsAfterEdge_busy bits hr ⟨by omega, by omega⟩ (fun hs => by rw [hs] at hp; exact absurd hp (by decide))]
    exact received_move h (by bv_omega) (by rw [State.raise_state]; decide) rfl rfl
  | sampleMore hs hc ho hw hb =>
    rw [bitsAfterEdge_sample bits hr hs hc]
    refine received_sample h (by rw [hs]; decide) ho hw rfl ?_
    rw [bitsSampled_of_not_done (by rw [State.goto_state]; decide)]
    simp only [State.goto_bitIdx]
    bv_omega
  | sampleLast hs hc ho hw hb =>
    rw [bitsAfterEdge_sample bits hr hs hc]
    exact received_sample h (by rw [hs]; decide) ho hw rfl (by rw [hb]; rfl)

/-- Settles O28: a reset leaves nothing received; otherwise the arm's move leaves the bits the edge does, and neither the
shift nor the next cycle touches the frame. -/
theorem frameHoldsBitsReceived : Obligations.FrameHoldsBitsReceived := by
  unfold Obligations.FrameHoldsBitsReceived
  intro s t bits hi h hstep
  obtain ⟨-, ⟨hr, rfl⟩ | ⟨hr, u, hu, rfl⟩⟩ := step_cases hstep
  · rw [bitsAfterEdge_reset bits hr]
    exact received_nil rfl rfl
  · exact received_congr (received_armMove h hr (armMove_of_stateArm hi.stateUsed hu)) rfl rfl

end Sys2Proof.Machine
end

section
/-! PROOFS. The reachable-state invariant (10_state.md R33): its clauses on the registers, kept by every move of an arm;
that it holds at reset, and that every step keeps it and none stops. -/

namespace Sys2Proof.Machine

/-! ## The registers -/

/-- The clauses of `Invariant` on the state code, the count, the bit index and the cause. -/
structure RegistersOk (p : Config.Params) (code : BitVec 4) (cnt : Nat) (bitIdx : BitVec 6) (cause : BitVec 2) :
    Prop where
  stateUsed : code.toNat ≤ 9
  cntBounded : cnt < cntBound p code
  bitIdxBounded : bitIdx.toNat ≤ 39
  bitIdxBeforeBits : code.toNat ≤ 4 → bitIdx = 0
  bitIdxDone : code = Code.done → bitIdx = 39
  noCause : code ≠ Code.timedOut → cause = 0
  someCause : code = Code.timedOut → cause ≠ 0
  ackCauseBit : cause = Cause.ackTimeout.code ∨ cause = Cause.ackEndTimeout.code → bitIdx = 0

section
variable {p : Config.Params} {code : BitVec 4} {cnt : Nat} {bitIdx : BitVec 6} {cause : BitVec 2}

/-- A bit index and a restarted count that R33 allows in a state other than TIMED_OUT, with no cause. -/
theorem registersOk_start (hp : ConfigOk p) (h9 : code.toNat ≤ 8) (h39 : bitIdx.toNat ≤ 39)
    (h4 : code.toNat ≤ 4 → bitIdx = 0) (h8 : code = Code.done → bitIdx = 39) : RegistersOk p code 0 bitIdx 0 where
  stateUsed := by omega
  cntBounded := cntBound_pos hp code
  bitIdxBounded := h39
  bitIdxBeforeBits := h4
  bitIdxDone := h8
  noCause _ := rfl
  someCause h := by rw [h] at h9; exact absurd h9 (by decide)
  ackCauseBit h := absurd h (by decide)

/-- The reset values (R260). -/
theorem registersOk_idle (hp : ConfigOk p) : RegistersOk p Code.idle 0 0 0 :=
  registersOk_start hp (by decide) (by decide) (fun _ => rfl) (fun h => absurd h (by decide))

/-- What an accept leaves (R121). -/
theorem registersOk_startPulse (hp : ConfigOk p) : RegistersOk p Code.startPulse 0 0 0 :=
  registersOk_start hp (by decide) (by decide) (fun _ => rfl) (fun h => absurd h (by decide))

theorem RegistersOk.count (h : RegistersOk p code cnt bitIdx cause) (hn : cnt + 1 < cntBound p code) :
    RegistersOk p code (cnt + 1) bitIdx cause := { h with cntBounded := hn }

/-- A busy state has no cause. -/
theorem RegistersOk.cause_eq_zero (h : RegistersOk p code cnt bitIdx cause) (hc : code.toNat ≤ 8) : cause = 0 :=
  h.noCause fun e => by rw [e] at hc; exact absurd hc (by decide)

theorem RegistersOk.advance (h : RegistersOk p code cnt bitIdx cause) (hp : ConfigOk p) (h6 : code.toNat ≤ 6) :
    RegistersOk p (code + 1) 0 bitIdx cause := by
  rw [h.cause_eq_zero (by omega)]
  exact registersOk_start hp (by bv_omega) h.bitIdxBounded (fun h4 => h.bitIdxBeforeBits (by bv_omega))
    (fun h8 => by bv_omega)

/-- What a sample before the last one leaves (R164). -/
theorem RegistersOk.sampleMore (h : RegistersOk p Code.bitDelay cnt bitIdx cause) (hp : ConfigOk p)
    (hb : bitIdx.toNat < 39) : RegistersOk p Code.bitWaitLow 0 (bitIdx + 1) cause := by
  rw [h.cause_eq_zero (by decide)]
  exact registersOk_start hp (by decide) (by bv_omega) (fun h4 => absurd h4 (by decide))
    (fun h8 => absurd h8 (by decide))

/-- What the last sample leaves (R164). -/
theorem RegistersOk.sampleLast (h : RegistersOk p Code.bitDelay cnt bitIdx cause) (hp : ConfigOk p)
    (hb : bitIdx = 39) : RegistersOk p Code.done 0 bitIdx cause := by
  rw [h.cause_eq_zero (by decide)]
  exact registersOk_start hp (by decide) h.bitIdxBounded (fun h4 => absurd h4 (by decide)) (fun _ => hb)

theorem RegistersOk.timeOut (h : RegistersOk p code cnt bitIdx cause) {c : Cause}
    (hc : c ≠ .bitTimeout → code.toNat ≤ 4) : RegistersOk p Code.timedOut 0 bitIdx c.code where
  stateUsed := by decide
  cntBounded := by exact Nat.one_pos
  bitIdxBounded := h.bitIdxBounded
  bitIdxBeforeBits h4 := absurd h4 (by decide)
  bitIdxDone h8 := absurd h8 (by decide)
  noCause h := absurd rfl h
  someCause _ := by cases c <;> decide
  ackCauseBit e := h.bitIdxBeforeBits (hc (by rintro rfl; revert e; decide))

end

theorem Invariant.registersOk {s : State} (h : Invariant s) :
    RegistersOk s.cfg s.state s.cnt s.bitIdx s.errCause where
  stateUsed := h.stateUsed
  cntBounded := h.cntBounded
  bitIdxBounded := h.bitIdxBounded
  bitIdxBeforeBits := h.bitIdxBeforeBits
  bitIdxDone := h.bitIdxDone
  noCause := h.noCause
  someCause := h.someCause
  ackCauseBit := h.ackCauseBit

/-- The settling of the outputs gives the clauses on the ports. -/
theorem invariant_settledState {s : State} {bits : List Bool} (hc : ConfigOk s.cfg)
    (h : RegistersOk s.cfg s.state s.cnt s.bitIdx s.errCause) (hb : Received bits s)
    (hs : s.sync.length = s.cfg.syncStages) : Invariant (settledState s) where
  configOk := hc
  stateUsed := h.stateUsed
  cntBounded := h.cntBounded
  bitIdxBounded := h.bitIdxBounded
  bitIdxBeforeBits := h.bitIdxBeforeBits
  bitIdxDone := h.bitIdxDone
  noCause := h.noCause
  someCause := h.someCause
  ackCauseBit := h.ackCauseBit
  frameReceived := ⟨bits, hb⟩
  syncLength := hs
  pinSettled := ⟨rfl, rfl⟩
  humiditySettled := rfl

/-- Before a state's last cycle or poll the count goes on without wrapping and stays below the state's bound (R24). -/
theorem countUp_cnt_of_bounded {s : State} (hc : ConfigOk s.cfg) (hb : s.cnt < cntBound s.cfg s.state)
    (hn : s.cnt ≠ cntBound s.cfg s.state - 1) :
    s.countUp.cnt = s.cnt + 1 ∧ s.cnt + 1 < cntBound s.cfg s.state := by
  have hlt : s.cnt + 1 < cntBound s.cfg s.state := by omega
  exact ⟨countUp_cnt_of_lt hc (cntBound_le s.state hc) hlt, hlt⟩

/-- R33: the arm of a used state code keeps the clauses on the registers. -/
theorem registersOk_armMove {b : Bool} {s u : State} (hc : ConfigOk s.cfg)
    (h : RegistersOk s.cfg s.state s.cnt s.bitIdx s.errCause) (hm : ArmMove b s u) :
    RegistersOk u.cfg u.state u.cnt u.bitIdx u.errCause := by
  cases hm with
  | accept _ _ => exact registersOk_startPulse hc
  | stay _ _ => exact h
  | count _ hn =>
    obtain ⟨he, hlt⟩ := countUp_cnt_of_bounded hc h.cntBounded hn
    rw [he]
    exact h.count hlt
  | advance _ h6 => exact h.advance hc h6
  | timeOut c _ ha => exact h.timeOut ha
  | sampleMore hs _ _ _ hb => exact (hs ▸ h).sampleMore hc hb
  | sampleLast hs _ _ _ hb => exact (hs ▸ h).sampleLast hc hb

/-! ## The step -/

theorem shiftedSync_length (s : State) : (shiftedSync s).length = s.sync.length := by
  simp [shiftedSync]

/-- Reset leaves registers that R33 allows (R260), whatever they were. -/
theorem invariant_reset {s : State} (hc : ConfigOk s.cfg) : Invariant (settledState s.resetRegs.nextCycle) :=
  invariant_settledState (bits := []) hc (registersOk_idle hc) (received_nil rfl rfl) List.length_replicate

/-- Settles O27: a reset leads to the invariant from anywhere; otherwise the arm's move keeps the clauses on the registers
and the bits received, the shift keeps the chain's length, and the settling gives the ports. -/
theorem stepKeepsInvariant : Obligations.StepKeepsInvariant := by
  unfold Obligations.StepKeepsInvariant
  intro s t h hstep
  obtain ⟨hc, ⟨-, rfl⟩ | ⟨hr, u, hu, rfl⟩⟩ := step_cases hstep
  · exact invariant_reset hc
  · have hm := armMove_of_stateArm h.stateUsed hu
    have hregs := registersOk_armMove hc h.registersOk hm
    obtain ⟨bits, hbits⟩ := h.frameReceived
    obtain ⟨hcfg, -, -, hsync, -⟩ := stateArm_frame hu
    refine invariant_settledState (s := u.shiftSync.nextCycle) (hcfg ▸ hc) hregs
      (received_congr (received_armMove hbits hr hm) rfl rfl) ?_
    calc (shiftedSync u).length
      _ = s.sync.length := by rw [shiftedSync_length, hsync]
      _ = s.cfg.syncStages := h.syncLength
      _ = u.cfg.syncStages := by rw [hcfg]

/-! ## The runs -/

/-- ResetState's ports are settled: released, high, and the humidity of the zero frame (R261). -/
theorem resetWith_eq_settledState (p : Config.Params) (inputs : List Input) :
    State.resetWith p inputs = settledState (State.resetWith p inputs) := by
  have hh : ∀ b : Bool, humidity b Frame.zero = 0 := by decide
  simp only [settledState, State.resetWith_state, State.resetWith_frame, hh]
  rfl

/-- Settles O10: ResetState is its own settling, with no bit received. -/
theorem invariantAtReset : Obligations.InvariantAtReset := by
  unfold Obligations.InvariantAtReset
  intro p inputs hp
  rw [resetWith_eq_settledState]
  exact invariant_settledState (bits := []) hp (registersOk_idle hp) (received_nil rfl rfl) List.length_replicate

/-- No step changes the configuration. -/
theorem step_cfg {s t : State} (h : step s = .next t) : t.cfg = s.cfg := by
  obtain ⟨-, ⟨-, rfl⟩ | ⟨-, u, hu, rfl⟩⟩ := step_cases h
  · rfl
  · exact (stateArm_frame hu).1

/-- A state of the invariant does not stop (R33). -/
theorem Invariant.step_next {s : State} (h : Invariant s) : ∃ t, step s = .next t := by
  cases hr : s.input.rstN with
  | false => exact ⟨_, step_reset h.configOk hr⟩
  | true =>
    obtain ⟨u, hu⟩ := stateArm_next s.input.start fun _ => h.legal
    exact ⟨_, step_run h.configOk hr hu⟩

/-- The invariant holds along every run from ResetState, under the run's configuration. -/
theorem Reachable.invariant {p : Config.Params} {s : State} (hp : ConfigOk p) (h : Reachable p s) :
    Invariant s ∧ s.cfg = p := by
  induction h with
  | start inputs => exact ⟨invariantAtReset p inputs hp, rfl⟩
  | next _ hstep ih =>
    obtain ⟨hi, hcfg⟩ := ih
    exact ⟨stepKeepsInvariant _ _ hi hstep, (step_cfg hstep).trans hcfg⟩

/-- Settles O29, by induction on the run: the invariant holds along it, and a state of the invariant does not stop. -/
theorem reachableStatesNeverStop : Obligations.ReachableStatesNeverStop := by
  unfold Obligations.ReachableStatesNeverStop
  intro p s hp h
  obtain ⟨hi, hcfg⟩ := h.invariant hp
  exact ⟨hi, hcfg, hi.step_next⟩

end Sys2Proof.Machine
end

section
/-! PROOFS. The frame and the bits it packs (10_state.md R33, 20_memory.md R51, R53): which bit of the frame is which bit
received, and which frames pack some bits. -/

namespace Sys2Proof.Machine

/-! ## The bits of a frame -/

/-- R33's `Σ bit_i * 2^(b-i)`, bit by bit: the first bit of the sequence is the most significant. -/
theorem testBit_packedValue (bits : List Bool) {i : Nat} (h : i < bits.length) :
    (packedValue bits).testBit (bits.length - 1 - i) = bits.getD i false := by
  induction bits generalizing i with
  | nil => simp at h
  | cons b r ih =>
    have hlt := packedValue_lt r
    rw [List.length_cons] at h ⊢
    cases i with
    | zero =>
      cases b <;> simp [packedValue, Nat.testBit_lt_two_pow hlt, Nat.testBit_two_pow_add_eq]
    | succ i =>
      have hi : r.length + 1 - 1 - (i + 1) = r.length - 1 - i := by omega
      rw [hi, List.getD_cons_succ, ← ih (by omega)]
      cases b
      · simp [packedValue]
      · simp only [packedValue, if_true]
        rw [Nat.testBit_two_pow_add_gt (by omega)]

theorem byteBits_length {bits : List Bool} {k : Nat} (h : 8 * k + 8 ≤ bits.length) : (byteBits bits k).length = 8 := by
  simp only [byteBits, List.length_take, List.length_drop]
  omega

theorem byteBits_getD (bits : List Bool) (k : Nat) {r : Nat} (hr : r < 8) :
    (byteBits bits k).getD r false = bits.getD (8 * k + r) false := by
  simp [byteBits, List.getD_eq_getElem?_getD, hr]

/-- Bit i of the bits received is bit `7 - i mod 8` of byte `i / 8` (R51). -/
theorem received_bit {bits : List Bool} {s : State} (h : Received bits s) (hl : bits.length = 40) {i : Nat}
    (hi : i < 40) : ∃ b, memRead s.frame (i / 8) = some b ∧ b.getLsbD (7 - i % 8) = bits.getD i false := by
  refine ⟨_, h.2 (i / 8) (by omega), ?_⟩
  have hlen : (byteBits bits (i / 8)).length = 8 := byteBits_length (by omega)
  have hbit := testBit_packedValue (byteBits bits (i / 8)) (i := i % 8) (by omega)
  rw [hlen, byteBits_getD _ _ (by omega), Nat.div_add_mod] at hbit
  rw [BitVec.getLsbD_ofNat, hbit, decide_eq_true (by omega), Bool.true_and]

/-- Format F, byte by byte (R53): byte k stands in `frame_o` from bit `8 * (4 - k)` on. -/
theorem frameO_getLsbD {f : Frame} {k q : Nat} (hk : k < 5) (hq : q < 8) {b : Byte} (hb : memRead f k = some b) :
    (frameO f).getLsbD (q + 8 * (4 - k)) = b.getLsbD q := by
  have hskip : ∀ n, 8 ≤ n → ¬ q + n < 8 := by omega
  simp only [frameO, BitVec.getLsbD_append]
  interval_cases k <;> cases hb <;> simp [hq, hskip]

/-- Format F, bit by bit (R53): bit 39 - i of `frame_o` is bit `7 - i mod 8` of byte `i / 8`. -/
theorem frameO_bit {f : Frame} {i : Nat} (hi : i < 40) {b : Byte} (hb : memRead f (i / 8) = some b) :
    (frameO f).getLsbD (39 - i) = b.getLsbD (7 - i % 8) := by
  rw [← frameO_getLsbD (by omega) (by omega) hb]
  congr 1
  omega

/-- Settles O26: format F puts bit `7 - i mod 8` of byte `i / 8` at 39 - i, and that is bit i of the sequence. -/
theorem firstBitIsMostSignificant : Obligations.FirstBitIsMostSignificant := by
  unfold Obligations.FirstBitIsMostSignificant
  intro s bits h hl i hi
  obtain ⟨b, hb, hbit⟩ := received_bit h hl hi
  exact ⟨(frameO_bit hi hb).trans hbit, b, hb, hbit⟩

/-! ## The frames that pack some bits -/

/-- Every number below 2 to the m is the packed value of m bits. -/
theorem exists_packedValue_eq {m v : Nat} (h : v < 2 ^ m) :
    ∃ bits : List Bool, bits.length = m ∧ packedValue bits = v := by
  induction m generalizing v with
  | zero => exact ⟨[], rfl, by rw [packedValue]; omega⟩
  | succ m ih =>
    obtain ⟨bits, hl, hv⟩ := ih (v := v / 2) (by omega)
    refine ⟨bits ++ [decide (v % 2 = 1)], by simp [hl], ?_⟩
    rw [packedValue_append, hv]
    rcases Nat.mod_two_eq_zero_or_one v with e | e <;> simp [e] <;> omega

/-- The first byte's bits in front of the rest: byte 0 is full, or the rest is empty. -/
theorem byteBits_zero_append {a r : List Bool} (ha : a.length ≤ 8) (h : a.length = 8 ∨ r = []) :
    byteBits (a ++ r) 0 = a := by
  rcases h with h | rfl
  · simp [byteBits, ← h]
  · simp [byteBits, List.take_of_length_le ha]

theorem byteBits_succ_append {a r : List Bool} (ha : a.length ≤ 8) (h : a.length = 8 ∨ r = []) (k : Nat) :
    byteBits (a ++ r) (k + 1) = byteBits r k := by
  rcases h with h | rfl
  · rw [byteBits, Nat.mul_succ, Nat.add_comm, ← List.drop_drop, ← h, List.drop_left, h, byteBits]
  · simp [byteBits, List.drop_of_length_le (show a.length ≤ 8 * (k + 1) by omega)]

/-- n bits are chosen byte by byte: each of m bytes may take any value that its share of the n bits can have. -/
theorem exists_bits_of_bytes {m n : Nat} (v : Nat → Nat) (hn : n ≤ 8 * m) (hv : ∀ k < m, v k < 2 ^ min (n - 8 * k) 8) :
    ∃ bits : List Bool, bits.length = n ∧ ∀ k < m, packedValue (byteBits bits k) = v k := by
  induction m generalizing n v with
  | zero => exact ⟨[], by simp; omega, by simp⟩
  | succ m ih =>
    obtain ⟨a, hla, hva⟩ := exists_packedValue_eq (hv 0 (by omega))
    obtain ⟨r, hlr, hvr⟩ := ih (n := n - 8) (fun k => v (k + 1)) (by omega) fun k hk => by
      have := hv (k + 1) (by omega)
      rwa [show n - 8 - 8 * k = n - 8 * (k + 1) by omega]
    have ha : a.length ≤ 8 := by omega
    have hfull : a.length = 8 ∨ r = [] := by
      rw [← List.length_eq_zero_iff]
      omega
    refine ⟨a ++ r, by simp; omega, fun k hk => ?_⟩
    cases k with
    | zero => rw [byteBits_zero_append ha hfull, hva]
    | succ k => rw [byteBits_succ_append ha hfull, hvr k (by omega)]

/-- The value of byte k of a frame, 0 beyond its five bytes. -/
def frameByte (f : Frame) (k : Nat) : Nat := ((memRead f k).getD 0).toNat

theorem memRead_eq_frameByte (f : Frame) {k : Nat} (h : k < 5) :
    memRead f k = some (BitVec.ofNat 8 (frameByte f k)) := by
  obtain ⟨b, hb⟩ := Option.isSome_iff_exists.mp ((memRead_isSome f k).mpr h)
  simp [frameByte, hb]

/-- R33's frame check, byte by byte. -/
theorem frameByte_lt_of_frameFits {n : Nat} {f : Frame} (h : FrameFits n f) {k : Nat} (hk : k < 5) :
    frameByte f k < 2 ^ min (n - 8 * k) 8 := by
  obtain ⟨h0, h1, h2, h3, h4⟩ := h
  interval_cases k
  exacts [h0, h1, h2, h3, h4]

theorem bitsSampled_le {s : State} (h : s.bitIdx.toNat ≤ 39) : bitsSampled s ≤ 40 := by
  unfold bitsSampled bitsIn
  split <;> omega

/-- Settles O53: received bits bound each byte, and within the bounds the bits are chosen byte by byte. -/
theorem legalFramesPackBits : Obligations.LegalFramesPackBits := by
  unfold Obligations.LegalFramesPackBits
  intro s hb
  constructor
  · intro h
    obtain ⟨bits, hl, hv⟩ := exists_bits_of_bytes (m := 5) (frameByte s.frame) (bitsSampled_le hb)
      fun k hk => frameByte_lt_of_frameFits h hk
    exact ⟨bits, hl, fun k hk => by rw [hv k hk, memRead_eq_frameByte s.frame hk]⟩
  · rintro ⟨bits, h⟩
    exact frameFits_of_received h

end Sys2Proof.Machine
end

section
/-! PROOFS. The states that R33 excludes are refused (10_state.md R33, 93_implementation_defined.md U5), but not by a
reset (70_reset_and_hazards.md R260). -/

namespace Sys2Proof.Machine

/-- The row of a used state code acts in the states that R33 allows for that code only. -/
theorem exec_decodeState_inLegal {c : BitVec 4} (h : c.toNat ≤ 9) (s : State) :
    ∃ r, exec (decodeState c) s = clocked s (inLegal c s r) := by
  rcases bitVec4_cases c with rfl | rfl | rfl | rfl | rfl | rfl | rfl | rfl | rfl | rfl | hu
  case inr.inr.inr.inr.inr.inr.inr.inr.inr.inr => omega
  all_goals exact ⟨_, rfl⟩

theorem clocked_refused {s : State} (hc : ConfigOk s.cfg) (e : Refusal) : clocked s (.refused e) = .refused e := by
  rw [clocked_of_ok hc, andThen_refused]

theorem exec_decodeState_of_illegal {c : BitVec 4} {s : State} (hc : ConfigOk s.cfg) (h : c.toNat ≤ 9)
    (hl : ¬ Legal c s) : exec (decodeState c) s = .refused .unreachableState := by
  obtain ⟨r, hr⟩ := exec_decodeState_inLegal h s
  rw [hr, inLegal_of_illegal hl, clocked_refused hc]

/-- NOP and READ run the arm of the state register's code. -/
theorem clocked_stateArm_of_illegal {s : State} (hc : ConfigOk s.cfg) (h : s.state.toNat ≤ 9)
    (hl : ¬ Legal s.state s) (b : Bool) : clocked s (stateArm b s) = .refused .unreachableState := by
  rw [stateArm_illegal b h hl, clocked_refused hc]

theorem step_of_illegal {s : State} (hc : ConfigOk s.cfg) (h : s.state.toNat ≤ 9) (hl : ¬ Legal s.state s)
    (hr : s.input.rstN = true) : step s = .refused .unreachableState := by
  rw [step, edgeInstr_run hr, exec_decodeState_of_illegal hc h hl, andThen_refused]

/-- Settles O52: each used code's arm tests R33 first, and a reset leads to the invariant from anywhere. -/
theorem unreachableStatesRefused : Obligations.UnreachableStatesRefused := by
  unfold Obligations.UnreachableStatesRefused
  intro s hc
  constructor
  · rintro i c h rfl hl
    exact exec_decodeState_of_illegal hc h hl
  · intro h hl
    exact ⟨clocked_stateArm_of_illegal hc h hl false, clocked_stateArm_of_illegal hc h hl true,
      step_of_illegal hc h hl, fun hr => ⟨_, step_reset hc hr, rfl, (invariant_reset hc).legal⟩⟩

/-- Settles O19: R33 keeps the bit index below 40 in BIT_DELAY; the frame store has no byte for a larger one. -/
theorem sampleOutsideFrameRefused : Obligations.SampleOutsideFrameRefused := by
  unfold Obligations.SampleOutsideFrameRefused
  intro s hc h40
  constructor
  · refine exec_decodeState_of_illegal (c := Code.bitDelay) hc (by decide) fun hl => ?_
    obtain ⟨-, h39, -⟩ := hl
    omega
  · rcases sample_cases s with ⟨hlt, -⟩ | ⟨-, h⟩
    · omega
    · exact h

end Sys2Proof.Machine
end

section
/-! PROOFS. The outputs as functions of the registers (10_state.md R21, R22): the flags and the pin by state code, the
reading by the bytes of the frame. -/

namespace Sys2Proof.Machine

theorem lineOe_pinCode (c : BitVec 4) : (pinCode c).getLsbD 1 = decide (c = 1 ∨ c = 2 ∨ c = 8) := by
  revert c; decide

theorem lineOut_pinCode (c : BitVec 4) : (pinCode c).getLsbD 0 = decide (c ≠ 1) := by
  revert c; decide

theorem statusOf_eq (c : BitVec 4) : statusOf c = if c = 8 then 0b10 else if c = 9 then 0b11
    else if 1 ≤ c.toNat ∧ c.toNat ≤ 7 then 0b01 else 0b00 := by
  revert c; decide

theorem busyOf_eq (c : BitVec 4) : busyOf c = decide (1 ≤ c.toNat ∧ c.toNat ≤ 7) := by
  revert c; decide

/-- A word with a byte appended is 256 times the word and the byte. -/
theorem toNat_append_byte {n : Nat} (x : BitVec n) (b : Byte) : (x ++ b).toNat = x.toNat * 256 + b.toNat := by
  rw [BitVec.toNat_append, ← Nat.shiftLeft_add_eq_or_of_lt b.isLt, Nat.shiftLeft_eq]

theorem frameO_eq (f : Frame) : frameO f = BitVec.ofNat 40
    ((((f.b0.toNat * 256 + f.b1.toNat) * 256 + f.b2.toNat) * 256 + f.b3.toNat) * 256 + f.b4.toNat) := by
  have h : (frameO f).toNat =
      (((f.b0.toNat * 256 + f.b1.toNat) * 256 + f.b2.toNat) * 256 + f.b3.toNat) * 256 + f.b4.toNat := by
    simp only [frameO, toNat_append_byte]
  rw [← h, BitVec.ofNat_toNat, BitVec.setWidth_eq]

theorem rawHumidity_toNat (f : Frame) : (rawHumidity f).toNat = f.b0.toNat * 256 + f.b1.toNat :=
  toNat_append_byte f.b0 f.b1

theorem humidity_eq (b : Bool) (f : Frame) : humidity b f = BitVec.ofNat 16 (if b = true
    then (f.b0.toNat * 256 + f.b1.toNat) / 10 else f.b0.toNat * 256 + f.b1.toNat) := by
  rw [← rawHumidity_toNat]
  cases b
  · simp [humidity, humidityRaw]
  · simp [humidity, humidityDiv10]

theorem rawTemperature_toNat (f : Frame) : (rawTemperature f).toNat = f.b2.toNat * 256 + f.b3.toNat :=
  toNat_append_byte f.b2 f.b3

/-- The sign of the temperature is the top bit of byte 2 (R204). -/
theorem negative_eq (f : Frame) : negative f = decide (128 ≤ f.b2.toNat) := by
  have h3 := f.b3.isLt
  rw [negative, ← BitVec.msb_eq_getLsbD_last, BitVec.msb_eq_decide, rawTemperature_toNat]
  congr 1
  apply propext
  omega

/-- The magnitude is the temperature's half-word without its top bit (R204). -/
theorem magnitude_toNat (f : Frame) : (magnitude f).toNat = (f.b2.toNat * 256 + f.b3.toNat) % 32768 := by
  rw [magnitude, BitVec.toNat_and, rawTemperature_toNat]
  exact Nat.and_two_pow_sub_one_eq_mod _ 15

/-- R204, R205: the tenths are the magnitude, negated if the sign is set. -/
theorem temperatureTenths_eq (f : Frame) : temperatureTenths f = if 128 ≤ f.b2.toNat
    then -(((f.b2.toNat - 128) * 256 + f.b3.toNat : Nat) : Int)
    else ((f.b2.toNat * 256 + f.b3.toNat : Nat) : Int) := by
  have h2 := f.b2.isLt
  have h3 := f.b3.isLt
  rw [temperatureTenths, negative_eq, magnitude_toNat]
  by_cases hn : 128 ≤ f.b2.toNat
  · rw [if_pos (decide_eq_true hn), if_pos hn]
    omega
  · rw [if_neg (by simpa using hn), if_neg hn]
    omega

theorem checksumValid_eq (f : Frame) : checksumValid f =
    decide ((f.b0.toNat + f.b1.toNat + f.b2.toNat + f.b3.toNat) % 256 = f.b4.toNat) := by
  rw [checksumValid, Bool.eq_iff_iff, beq_iff_eq, decide_eq_true_iff, ← BitVec.toNat_inj, checksum, BitVec.toNat_ofNat]
  rfl

/-- The outputs of a settled state, each as its function of the registers (R21). -/
theorem outputs_settledState (s : State) : outputs (settledState s) =
    { lineOe := (pinCode s.state).getLsbD 1, lineOut := (pinCode s.state).getLsbD 0, busy := busyOf s.state
      status := statusOf s.state, errCause := s.errCause, frameO := frameO s.frame
      humidityO := humidity s.input.cfgHumDiv10 s.frame, temperatureO := temperature s.frame
      checksumO := checksum s.frame, checksumValidO := checksumValid s.frame, stateO := s.state
      bitIdxO := s.bitIdx } := rfl

/-- Every state that a step begins is settled (R22). -/
theorem step_settled {s t : State} (h : step s = .next t) : ∃ u, t = settledState u := by
  obtain ⟨-, ⟨-, rfl⟩ | ⟨-, u, -, rfl⟩⟩ := step_cases h
  · exact ⟨_, rfl⟩
  · exact ⟨_, rfl⟩

/-- Settles O31: the state a step begins is settled, and each output of a settled state is the stated arithmetic. -/
theorem outputsFollowRegisters : Obligations.OutputsFollowRegisters := by
  unfold Obligations.OutputsFollowRegisters
  intro s t h
  obtain ⟨u, rfl⟩ := step_settled h
  rw [outputs_settledState, lineOe_pinCode, lineOut_pinCode, busyOf_eq, statusOf_eq, frameO_eq, humidity_eq,
    temperature, temperatureTenths_eq, checksumValid_eq]
  rfl

end Sys2Proof.Machine
end

section
/-! PROOFS. The frame store (20_memory.md R50), and the frame of a whole run (R51, R53): the bits received are carried
from step to step. -/

namespace Sys2Proof.Machine

/-! ## The frame store -/

theorem memRead_eq_none (f : Frame) {k : Nat} (h : 5 ≤ k) : memRead f k = none :=
  Option.not_isSome_iff_eq_none.mp (mt (memRead_isSome f k).mp (by omega))

theorem memWrite_eq_none (f : Frame) {k : Nat} (v : Byte) (h : 5 ≤ k) : memWrite f k v = none :=
  Option.not_isSome_iff_eq_none.mp (mt (memWrite_isSome f k v).mp (by omega))

/-- Settles O25: the write of one of the five bytes has a result, and the rules of a read after a write say the rest. -/
theorem frameStoreReadsWhatWasWritten : Obligations.FrameStoreReadsWhatWasWritten := by
  unfold Obligations.FrameStoreReadsWhatWasWritten
  refine ⟨fun f k v hk => ?_, fun f k v hk => ⟨memRead_eq_none f hk, memWrite_eq_none f v hk⟩⟩
  obtain ⟨g, hg⟩ := Option.isSome_iff_exists.mp ((memWrite_isSome f k v).mpr (by omega))
  exact ⟨g, hg, memRead_memWrite_same hg, fun j hj => memRead_memWrite_other hg hj⟩

/-! ## Runs -/

theorem steps_succ_eq_next {n : Nat} {s t : State} :
    steps (n + 1) s = .next t ↔ ∃ u, step s = .next u ∧ steps n u = .next t := andThen_eq_next

theorem bitsAfterSteps_succ {s u : State} (n : Nat) (bits : List Bool) (h : step s = .next u) :
    bitsAfterSteps (n + 1) bits s = bitsAfterSteps n (bitsAfterEdge bits s) u := by
  rw [bitsAfterSteps, h]

/-- R33, R51: a run from a state of the invariant leaves in the frame exactly the bits it has received. -/
theorem received_steps {n : Nat} {s t : State} {bits : List Bool} (hi : Invariant s) (h : Received bits s)
    (hrun : steps n s = .next t) : Received (bitsAfterSteps n bits s) t := by
  induction n generalizing s bits with
  | zero =>
    cases hrun
    exact h
  | succ n ih =>
    obtain ⟨u, hstep, hrest⟩ := steps_succ_eq_next.mp hrun
    rw [bitsAfterSteps_succ n bits hstep]
    exact ih (stepKeepsInvariant s u hi hstep) (frameHoldsBitsReceived s u bits hi h hstep) hrest

/-- Settles O51: in DONE the bits a run has received are 40 (R33), and 40 bits stand in the frame first bit first. -/
theorem frameIsLineSequence : Obligations.FrameIsLineSequence := by
  unfold Obligations.FrameIsLineSequence
  intro s t bits n hi h hrun hdone
  have hreceived : Received (bitsAfterSteps n bits s) t := received_steps hi h hrun
  have hlength : (bitsAfterSteps n bits s).length = 40 := hreceived.1.trans (if_pos hdone)
  exact ⟨hlength, firstBitIsMostSignificant t _ hreceived hlength⟩

end Sys2Proof.Machine
end

section
/-! PROOFS. The decoder and the encoder of the four formats (30_encoding.md R70 to R76, R81, R84): each inverts the other,
the opcode table's rows follow them, and the fields of format I are the bits of its word. -/

namespace Sys2Proof

/-! ## The round trip -/

/-- `w` is the word of the well-formed instruction `i` in the format `f` (R70, R84). -/
abbrev IsWordOf (f : Fmt) (w : Nat) (i : Instr) : Prop := WellFormed i ∧ formatOf i = f ∧ encode i = w

theorem decodeState_of_wellFormed_unused1011 {code : BitVec 4} (h : WellFormed (.unused1011 code)) :
    decodeState code = .unused1011 code := by
  revert code; decide

theorem decodeState_of_wellFormed_unused1215 {code : BitVec 4} (h : WellFormed (.unused1215 code)) :
    decodeState code = .unused1215 code := by
  revert code; decide

/-- Only the two rows that carry a state code need to be well formed. -/
theorem decode_encode {i : Instr} (h : WellFormed i) : decode (formatOf i) (encode i) = .ok i := by
  cases i with
  | unused1011 code => exact (decode_state_toNat code).trans (congrArg _ (decodeState_of_wellFormed_unused1011 h))
  | unused1215 code => exact (decode_state_toNat code).trans (congrArg _ (decodeState_of_wellFormed_unused1215 h))
  | reset start => cases start <;> rfl
  | _ => rfl

theorem decode_tooWide {f : Fmt} {w : Nat} (h : ¬ w < 2 ^ f.width) : decode f w = .error (.tooWide f) := if_neg h

theorem decode_fits {f : Fmt} {w : Nat} {i : Instr} (h : decode f w = .ok i) : w < 2 ^ f.width := by
  by_contra hw
  rw [decode_tooWide hw] at h
  cases h

/-! Each format's own decoder gives an instruction whose word is the code. -/

theorem isWordOf_decodeState (v : BitVec 4) : IsWordOf .s v.toNat (decodeState v) := by
  revert v; decide

theorem isWordOf_decodePin {v : BitVec 2} {i : Instr} (h : decodePin v = .ok i) : IsWordOf .p v.toNat i := by
  rcases bitVec2_cases v with rfl | rfl | rfl | rfl <;> cases h <;> decide

theorem isWordOf_decodeControl (v : BitVec 2) : IsWordOf .c v.toNat (decodeControl v) := by
  revert v; decide

theorem isWordOf_decodeVariant (v : BitVec 1) : IsWordOf .g v.toNat (decodeVariant v) := by
  revert v; decide

theorem isWordOf_of_decode {f : Fmt} {w : Nat} {i : Instr} (h : decode f w = .ok i) : IsWordOf f w i := by
  have hw : w < 2 ^ f.width := decode_fits h
  have hv : (BitVec.ofNat f.width w).toNat = w := by rw [BitVec.toNat_ofNat, Nat.mod_eq_of_lt hw]
  simp only [decode, hw, if_true] at h
  rw [← hv]
  cases f with
  | s => cases h; exact isWordOf_decodeState _
  | p => exact isWordOf_decodePin h
  | c => cases h; exact isWordOf_decodeControl _
  | g => cases h; exact isWordOf_decodeVariant _

/-- Settles O2: what a format's decoder gives has the code for its word, and the word of a well-formed instruction is
decoded to it. -/
theorem decodeInvertsEncode : Obligations.DecodeInvertsEncode := by
  unfold Obligations.DecodeInvertsEncode
  refine fun f w i => ⟨isWordOf_of_decode, ?_⟩
  rintro ⟨hi, rfl, rfl⟩
  exact decode_encode hi

/-- Settles O1: nine of the words are those of their instructions, so the round trip decodes them; P 00 is reserved, and
16 does not fit the four bits of format S. -/
theorem tableWordsDecode : Obligations.TableWordsDecode := by
  unfold Obligations.TableWordsDecode
  exact ⟨decode_encode (i := .waitAck) rfl, decode_encode (i := .bitWaitLow) rfl, decode_encode (i := .done) rfl,
    decode_encode (i := .unused1011 0b1011) rfl, decode_encode (i := .unused1215 0b1110) rfl,
    decode_encode (i := .driveLow) rfl, rfl, decode_encode (i := .reset true) rfl, decode_encode (i := .read) rfl,
    decode_encode (i := .humDiv10) rfl, decode_tooWide (f := .s) (by decide)⟩

/-! ## The rows of the opcode table -/

/-- Within its format a word that fits is decoded, unless it is the reserved P code (R81). -/
theorem decode_ok_or_reserved {f : Fmt} {w : Nat} (h : w < 2 ^ f.width) :
    (∃ i, decode f w = .ok i) ∨ f = .p ∧ w = 0 := by
  simp only [decode, h, if_true]
  cases f with
  | s => exact .inl ⟨_, rfl⟩
  | c => exact .inl ⟨_, rfl⟩
  | g => exact .inl ⟨_, rfl⟩
  | p =>
    have hw : w < 4 := h
    interval_cases w
    · exact .inr ⟨rfl, rfl⟩
    all_goals exact .inl ⟨_, rfl⟩

open Laws.SelectsOwnRow in
theorem selectsOwnRow (i : Instr) : Statement i := by
  cases i
  exacts [idle, startPulse, releaseLine, waitAck, ackLow, bitWaitLow, bitWaitHigh, bitDelay, done, timedOut,
    unused1011 _, unused1215 _, driveLow, driveHigh, release, reset _, nop, read, humRaw, humDiv10]

/-- R84: a decoded word selects its instruction's row and no other. -/
theorem selectedRows_of_decode {f : Fmt} {w : Nat} {i : Instr} (h : decode f w = .ok i) :
    ((rowsOf f).filter fun r => decide (r.Selects w)).map Row.mnemonic = [mnemonicOf i] := by
  obtain ⟨hi, rfl, rfl⟩ := isWordOf_of_decode h
  exact (selectsOwnRow i hi).2

/-- Settles O3: a decoded word selects exactly its instruction's row, and only P 00 is not decoded, which no row selects. -/
theorem rowsDisjointAndCovering : Obligations.RowsDisjointAndCovering := by
  unfold Obligations.RowsDisjointAndCovering
  refine fun f w hw => ⟨?_, fun i => selectedRows_of_decode⟩
  rcases decode_ok_or_reserved hw with ⟨i, hi⟩ | ⟨rfl, rfl⟩
  · have hnot : ¬ (f = .p ∧ w = 0) := by
      rintro ⟨rfl, rfl⟩
      cases hi
    rw [if_neg hnot, ← List.length_map Row.mnemonic, selectedRows_of_decode hi, List.length_singleton]
  · rfl

/-! ## Format I -/

theorem Input.toWord_ofWord (w : BitVec 4) : (Input.ofWord w).toWord = w := by
  revert w; decide

theorem Input.control_ofWord (w : BitVec 4) : (Input.ofWord w).control = w.extractLsb' 2 2 := by
  revert w; decide

theorem Input.variant_ofWord (w : BitVec 4) : (Input.ofWord w).variant = w.extractLsb' 1 1 := by
  revert w; decide

/-- Settles O4: the fields are the word's bits by definition, and put together they are its parts again. -/
theorem inputVectorFields : Obligations.InputVectorFields := by
  unfold Obligations.InputVectorFields
  exact fun w => ⟨Input.toWord_ofWord w, rfl, rfl, rfl, rfl, Input.control_ofWord w, Input.variant_ofWord w⟩

end Sys2Proof
end

section
/-! PROOFS. The step as the host's command (30_encoding.md R74, R120), and what it reads of the cycle's input vector (R82,
R211): `rst_n` and `start`, and `line_in` through the arm's `line_s` and the shift. -/

namespace Sys2Proof.Machine

/-! ## The host's command -/

/-- Without a reset the host's command is the arm of the current state with this cycle's `start` (R120). -/
theorem exec_decodeControl_run {s : State} (h : s.input.rstN = true) :
    exec (decodeControl s.input.control) s = clocked s (stateArm s.input.start s) := by
  rw [Input.control, h]
  cases s.input.start <;> rfl

/-- The row of the state code and the host's command do the same at the clock edge (R74, R120). -/
theorem exec_edgeInstr (s : State) : exec (edgeInstr s) s = exec (decodeControl s.input.control) s := by
  cases h : s.input.rstN with
  | false => rw [edgeInstr, h]; rfl
  | true => rw [edgeInstr_run h, exec_decodeState, exec_decodeControl_run h]

/-- Settles O6: the step is that of the state's row, which is the host's command. -/
theorem stepRunsHostCommand : Obligations.StepRunsHostCommand := by
  unfold Obligations.StepRunsHostCommand
  intro s
  rw [step, exec_edgeInstr]

/-! ## What a step reads of the input vector -/

theorem andThen_congr {r : Host.Outcome State Fault Refusal} {f g : State → Host.Outcome State Fault Refusal}
    (h : ∀ u, r = .next u → f u = g u) : andThen r f = andThen r g := by
  cases r with
  | next u => exact h u rfl
  | fault e => rfl
  | refused e => rfl

theorem andThen_assoc (r : Host.Outcome State Fault Refusal) (f g : State → Host.Outcome State Fault Refusal) :
    andThen (andThen r f) g = andThen r fun u => andThen (f u) g := by
  cases r <;> rfl

/-- The outcome with another input vector in the cycle, if it is a next state. -/
def outcomeWithInput (r : Host.Outcome State Fault Refusal) (j : Input) : Host.Outcome State Fault Refusal :=
  andThen r fun u => .next (u.withInput j)

theorem await_withInput (s : State) (j : Input) (b : Bool) : (s.withInput j).await b = (s.await b).withInput j := by
  cases b <;> rfl

theorem hold_withInput (s : State) (j : Input) (len : Nat) (code : BitVec 4) :
    (s.withInput j).hold len code = (s.hold len code).withInput j := by
  rcases hold_cases s len code with ⟨hc, e⟩ | ⟨hc, e⟩ <;> rw [e]
  · exact if_pos hc
  · exact if_neg hc

section
variable {s : State} {j : Input} (hline : (s.withInput j).lineS = s.lineS)
include hline

theorem poll_withInput (awaited : Bool) (bound : Nat) (code : BitVec 4) (c : Cause) :
    (s.withInput j).poll awaited bound code c = (s.poll awaited bound code c).withInput j := by
  rw [State.poll, hline]
  rcases poll_cases s awaited bound code c with ⟨hl, e⟩ | ⟨hl, hc, e⟩ | ⟨hl, hc, e⟩ <;> rw [e]
  · exact if_pos hl
  · exact (if_neg hl).trans (if_pos hc)
  · exact (if_neg hl).trans (if_neg hc)

theorem sample_withInput : (s.withInput j).sample = outcomeWithInput s.sample j := by
  have hindex : (s.withInput j).byteIndex = s.byteIndex := rfl
  rw [State.sample, State.sample, hline, hindex, State.withInput_frame]
  cases memRead s.frame s.byteIndex with
  | none => rfl
  | some old =>
    dsimp only
    cases memWrite s.frame s.byteIndex (shiftIn old s.lineS) with
    | none => rfl
    | some f =>
      rw [apply_ite (outcomeWithInput · j)]
      rfl

theorem legalArm_withInput (b : Bool) : legalArm b (s.withInput j) = outcomeWithInput (legalArm b s) j := by
  unfold legalArm
  rw [State.withInput_state]
  split
  iterate 2 · exact congrArg _ (hold_withInput ..)
  iterate 4 · exact congrArg _ (poll_withInput hline ..)
  · rw [sample_withInput hline, apply_ite (outcomeWithInput · j)]
    rfl
  · exact congrArg _ (await_withInput ..)

/-- The arm of a state reads the cycle's input vector only through `line_s` and the `start` it is given. -/
theorem stateArm_withInput (b : Bool) : stateArm b (s.withInput j) = outcomeWithInput (stateArm b s) j := by
  by_cases h9 : s.state.toNat ≤ 9
  · rw [stateArm_used b h9, stateArm_used (s := s.withInput j) b h9, legalArm_withInput hline,
      inLegal, inLegal, apply_ite (outcomeWithInput · j)]
    rfl
  · have hu : 10 ≤ s.state.toNat := by omega
    rw [stateArm_unused b hu, stateArm_unused (s := s.withInput j) b hu]
    rfl

end

/-- The shift takes `line_in`; the next cycle drops the vector. -/
theorem shiftSync_nextCycle_withInput {u : State} {j : Input} (h : j.lineIn = u.input.lineIn) :
    (u.withInput j).shiftSync.nextCycle = u.shiftSync.nextCycle := by
  simp [State.nextCycle, State.shiftSync, State.withInput, h]

theorem stateArm_input {b : Bool} {s u : State} (h : stateArm b s = .next u) : u.input = s.input := by
  obtain ⟨hcfg, hstimulus, hcycle, -⟩ := stateArm_frame h
  rw [State.input, State.input, hcfg, hstimulus, hcycle]

theorem lineS_withInput {s : State} {j : Input} (h : j.lineIn = s.input.lineIn) : (s.withInput j).lineS = s.lineS :=
  congrArg s.sync.getLastD h

/-- A step without a reset, whatever the arm answers (R120). -/
theorem step_eq_of_run {s : State} (hc : ConfigOk s.cfg) (h : s.input.rstN = true) :
    step s = andThen (stateArm s.input.start s) fun u => settle u.shiftSync.nextCycle := by
  rw [step, edgeInstr_run h, exec_decodeState, clocked_of_ok hc, andThen_assoc]
  rfl

/-- A step reads `rst_n`, `start` and `line_in` of the cycle's input vector and nothing else of it. -/
theorem step_withInput {s : State} {j : Input} (hreset : j.rstN = s.input.rstN) (hstart : j.start = s.input.start)
    (hline : j.lineIn = s.input.lineIn) : step (s.withInput j) = step s := by
  by_cases hc : ConfigOk s.cfg
  · cases hr : s.input.rstN with
    | false =>
      rw [step_reset hc hr, step_reset (s := s.withInput j) hc (hreset.trans hr)]
      rfl
    | true =>
      rw [step_eq_of_run hc hr, step_eq_of_run (s := s.withInput j) hc (hreset.trans hr), State.withInput_input,
        hstart, stateArm_withInput (lineS_withInput hline), outcomeWithInput, andThen_assoc]
      refine andThen_congr fun u hu => ?_
      rw [andThen_next, shiftSync_nextCycle_withInput (hline.trans (congrArg _ (stateArm_input hu).symm))]
  · rw [step_of_bad hc, step_of_bad (s := s.withInput j) hc]

/-- Settles O38: the two input vectors differ only in a bit that no step reads. -/
theorem variantNeverReachesRegisters : Obligations.VariantNeverReachesRegisters := by
  unfold Obligations.VariantNeverReachesRegisters
  intro s i
  exact step_withInput (s := s.withInput { i with cfgHumDiv10 := false }) (j := { i with cfgHumDiv10 := true })
    rfl rfl rfl

end Sys2Proof.Machine
end

section
/-! PROOFS. The rows by state code: the states that wait for the host (41_timing_state_machine.md R123, R127, R128), the
time-out without a cause (30_encoding.md R81), and the pin operations (40_line_driver.md R101 to R103). -/

namespace Sys2Proof.Machine

/-- IDLE, DONE and TIMED_OUT act as one: the accept or nothing, and the shift. -/
theorem exec_waiting {s : State} {i : Instr} {c : BitVec 4} (hc : ConfigOk s.cfg)
    (hi : i = .idle ∧ c = Code.idle ∨ i = .done ∧ c = Code.done ∨ i = .timedOut ∧ c = Code.timedOut)
    (hl : Legal c s) : exec i s = .next (s.await s.input.start).shiftSync := by
  have hexec : exec i s = clocked s (inLegal c s (.next (s.await s.input.start))) := by
    rcases hi with ⟨rfl, rfl⟩ | ⟨rfl, rfl⟩ | ⟨rfl, rfl⟩ <;> rfl
  rw [hexec, inLegal_of_legal hl, clocked_next hc]

/-- Settles O11: the three rows await a request, which is accepted if it is there. -/
theorem waitingStatesAcceptOrHold : Obligations.WaitingStatesAcceptOrHold := by
  unfold Obligations.WaitingStatesAcceptOrHold
  refine ⟨⟨rfl, rfl, rfl⟩, ⟨rfl, rfl, rfl⟩, ⟨rfl, rfl, rfl⟩, fun s i c hc hi hl => ?_⟩
  rw [exec_waiting hc hi hl]
  exact ⟨fun h => by rw [h]; rfl, fun h => by rw [h]; rfl⟩

/-- R33 gives every time-out a cause. -/
theorem not_legal_timedOut {s : State} (h : s.errCause = 0) : ¬ Legal Code.timedOut s := by
  rintro ⟨-, -, -, -, -, hcause, -⟩
  exact hcause rfl h

/-- Settles O50: R33 excludes a time-out without a cause, so what it excludes is refused. -/
theorem causelessTimeoutRefused : Obligations.CauselessTimeoutRefused := by
  unfold Obligations.CauselessTimeoutRefused
  intro s hc hcause
  obtain ⟨hrow, hstate⟩ := unreachableStatesRefused s hc
  have hl : ¬ Legal Code.timedOut s := not_legal_timedOut hcause
  refine ⟨hrow .timedOut Code.timedOut (by decide) rfl hl, fun h => ?_⟩
  obtain ⟨hnop, hread, hstep, hreset⟩ := hstate (by rw [h]; decide) (by rwa [h])
  refine ⟨hnop, hread, hstep, fun hr => ?_⟩
  obtain ⟨t, ht, hidle, -⟩ := hreset hr
  exact ⟨t, ht, hidle⟩

/-- Settles O23: each pin operation writes its port, and the P column says which one a state produces. -/
theorem pinOperationsDriveThePort : Obligations.PinOperationsDriveThePort := by
  unfold Obligations.PinOperationsDriveThePort
  exact ⟨fun s hc => ⟨guarded_of_ok hc _, guarded_of_ok hc _, guarded_of_ok hc _⟩, decodePin_pinCode⟩

end Sys2Proof.Machine
end

section
/-! PROOFS. The states that do not read the line (40_line_driver.md R104, R106): there an arm commutes with a change of the
line's level and of the synchroniser chain, and a step hands on nothing of either but the chain. -/

namespace Sys2Proof.Machine

/-- The states whose arm does not read `line_s`: those outside the polls (R126, R161 to R163) and the sample (R164). -/
def LineUnread (s : State) : Prop :=
  Waiting s ∨ s.state = Code.startPulse ∨ s.state = Code.releaseLine ∨ 10 ≤ s.state.toNat ∨
    (s.state = Code.bitDelay ∧ s.cnt ≠ s.cfg.tSample - 1)

/-- The state with another input vector in the current cycle and another synchroniser chain. -/
def State.withLine (s : State) (j : Input) (chain : List Bool) : State := { s.withInput j with sync := chain }

/-- The outcome with another input vector and another chain, if it is a next state. -/
def outcomeWithLine (r : Host.Outcome State Fault Refusal) (j : Input) (chain : List Bool) :
    Host.Outcome State Fault Refusal :=
  andThen r fun u => .next (u.withLine j chain)

section
variable (s : State) (j : Input) (chain : List Bool)

theorem await_withLine (b : Bool) : (s.withLine j chain).await b = (s.await b).withLine j chain := by
  cases b <;> rfl

theorem hold_withLine (len : Nat) (code : BitVec 4) :
    (s.withLine j chain).hold len code = (s.hold len code).withLine j chain := by
  rcases hold_cases s len code with ⟨hc, e⟩ | ⟨hc, e⟩ <;> rw [e]
  · exact if_pos hc
  · exact if_neg hc

theorem inLegal_withLine (c : BitVec 4) (r : Host.Outcome State Fault Refusal) :
    inLegal c (s.withLine j chain) (outcomeWithLine r j chain) = outcomeWithLine (inLegal c s r) j chain := by
  rw [inLegal, inLegal, apply_ite (outcomeWithLine · j chain)]
  rfl

end

/-! The pseudocode of the states that do not read the line. -/

theorem legalArm_waiting (b : Bool) {s : State} (h : Waiting s) : legalArm b s = .next (s.await b) := by
  unfold legalArm
  rcases h with e | e | e <;> rw [e] <;> rfl

theorem legalArm_startPulse (b : Bool) {s : State} (h : s.state = Code.startPulse) :
    legalArm b s = .next (s.hold s.cfg.tStart Code.releaseLine) := by
  unfold legalArm
  rw [h]
  rfl

theorem legalArm_releaseLine (b : Bool) {s : State} (h : s.state = Code.releaseLine) :
    legalArm b s = .next (s.hold s.cfg.tRelease Code.waitAck) := by
  unfold legalArm
  rw [h]
  rfl

theorem legalArm_bitDelay_early (b : Bool) {s : State} (h : s.state = Code.bitDelay)
    (hc : s.cnt ≠ s.cfg.tSample - 1) : legalArm b s = .next s.countUp := by
  unfold legalArm
  rw [h]
  exact if_neg hc

section
variable {s : State} (hl : LineUnread s) (j : Input) (chain : List Bool)
include hl

/-- Where the line is not read, the arm does the same whatever the line and the chain are, and it keeps both. -/
theorem stateArm_withLine (b : Bool) :
    stateArm b (s.withLine j chain) = outcomeWithLine (stateArm b s) j chain := by
  by_cases h9 : s.state.toNat ≤ 9
  · have key : legalArm b (s.withLine j chain) = outcomeWithLine (legalArm b s) j chain := by
      rcases hl with hw | e | e | hu | ⟨e, hc⟩
      · rw [legalArm_waiting b hw, legalArm_waiting (s := s.withLine j chain) b hw, await_withLine]
        rfl
      · rw [legalArm_startPulse b e, legalArm_startPulse (s := s.withLine j chain) b e, hold_withLine]
        rfl
      · rw [legalArm_releaseLine b e, legalArm_releaseLine (s := s.withLine j chain) b e, hold_withLine]
        rfl
      · omega
      · rw [legalArm_bitDelay_early b e hc, legalArm_bitDelay_early (s := s.withLine j chain) b e hc]
        rfl
    rw [stateArm_used b h9, stateArm_used (s := s.withLine j chain) b h9, key]
    exact inLegal_withLine ..
  · have hu : 10 ≤ s.state.toNat := by omega
    rw [stateArm_unused b hu, stateArm_unused (s := s.withLine j chain) b hu]
    rfl

/-- Where the line is not read, another line and another chain leave the step as it is, but for the chain. -/
theorem step_withLine {t : State} (hreset : j.rstN = s.input.rstN) (hstart : j.start = s.input.start)
    (h : step s = .next t) : ∃ chain', step (s.withLine j chain) = .next { t with sync := chain' } := by
  obtain ⟨hc, ⟨hr, rfl⟩ | ⟨hr, u, hu, rfl⟩⟩ := step_cases h
  · exact ⟨_, step_reset (s := s.withLine j chain) hc (hreset.trans hr)⟩
  · have harm : stateArm j.start (s.withLine j chain) = .next (u.withLine j chain) := by
      rw [hstart, stateArm_withLine hl, hu]
      rfl
    exact ⟨shiftedSync (u.withLine j chain), (step_run (s := s.withLine j chain) hc (hreset.trans hr) harm).trans rfl⟩

end

/-- Settles O37: the second state is the first with another line and another chain, so its step is the first's but for
the chain. -/
theorem lineUnreadOutsidePollsAndSample : Obligations.LineUnreadOutsidePollsAndSample := by
  unfold Obligations.LineUnreadOutsidePollsAndSample
  intro s t t' chain i b hl h h'
  obtain ⟨chain', hstep⟩ := step_withLine (s := s.withInput i) hl { i with lineIn := b } chain rfl rfl h
  cases hstep.symm.trans h'
  rfl

end Sys2Proof.Machine
end

section
/-! PROOFS. The rows of the timing state machine (41_timing_state_machine.md R120 to R129): the fixed delays, the
bounded poll, the recovery of the unused codes, and the host's commands NOP and READ. -/

namespace Sys2Proof.Machine

/-! ## The row of a used state code in the states that R33 allows -/

section
variable {s : State} {i : Instr} {c code : BitVec 4} {len : Nat} {awaited : Bool} {e : Cause}

theorem exec_of_legal {u : State} (hc : ConfigOk s.cfg) (hl : Legal c s)
    (hexec : exec i s = clocked s (inLegal c s (.next u))) : exec i s = .next u.shiftSync := by
  rw [hexec, inLegal_of_legal hl, clocked_next hc]

/-- R124, R125: a row whose arm is a fixed delay. -/
theorem exec_hold (hc : ConfigOk s.cfg) (hl : Legal c s)
    (hexec : exec i s = clocked s (inLegal c s (.next (s.hold len code)))) :
    (s.cnt = len - 1 → exec i s = .next { s with state := code, cnt := 0, sync := shiftedSync s }) ∧
    (s.cnt ≠ len - 1 →
      exec i s = .next { s with cnt := (s.cnt + 1) % 2 ^ s.cfg.cntW, sync := shiftedSync s }) := by
  rw [exec_of_legal hc hl hexec]
  rcases hold_cases s len code with ⟨hlast, hh⟩ | ⟨hearly, hh⟩ <;> rw [hh]
  · exact ⟨fun _ => rfl, fun h => absurd hlast h⟩
  · exact ⟨fun h => absurd h hearly, fun _ => rfl⟩

/-- R126, R161 to R163: a row whose arm is one poll of a bounded wait. -/
theorem exec_poll (hc : ConfigOk s.cfg) (hl : Legal c s)
    (hexec : exec i s = clocked s (inLegal c s (.next (s.poll awaited len code e)))) :
    (s.lineS = awaited → exec i s = .next { s with state := code, cnt := 0, sync := shiftedSync s }) ∧
    (s.lineS = !awaited → s.cnt = len - 1 →
      exec i s = .next { s with errCause := e.code, state := Code.timedOut, cnt := 0, sync := shiftedSync s }) ∧
    (s.lineS = !awaited → s.cnt ≠ len - 1 →
      exec i s = .next { s with cnt := (s.cnt + 1) % 2 ^ s.cfg.cntW, sync := shiftedSync s }) := by
  rw [exec_of_legal hc hl hexec]
  rcases poll_cases s awaited len code e with ⟨hs, hp⟩ | ⟨hs, hlast, hp⟩ | ⟨hs, hearly, hp⟩ <;> rw [hp]
  · exact ⟨fun _ => rfl, fun h => absurd (h ▸ hs) (by simp), fun h => absurd (h ▸ hs) (by simp)⟩
  · exact ⟨fun h => absurd h hs, fun _ _ => rfl, fun _ h => absurd hlast h⟩
  · exact ⟨fun h => absurd h hs, fun _ h => absurd h hearly, fun _ _ => rfl⟩

end

/-- Settles O12: START_PULSE is a fixed delay of T_START cycles before RELEASE_LINE. -/
theorem startPulseHoldsThenReleases : Obligations.StartPulseHoldsThenReleases := by
  unfold Obligations.StartPulseHoldsThenReleases
  exact ⟨rfl, rfl, rfl, fun s hc hl => exec_hold hc hl rfl⟩

/-- Settles O13: RELEASE_LINE is a fixed delay of T_RELEASE cycles before WAIT_ACK. -/
theorem releaseLineHoldsThenWaits : Obligations.ReleaseLineHoldsThenWaits := by
  unfold Obligations.ReleaseLineHoldsThenWaits
  exact ⟨rfl, rfl, rfl, fun s hc hl => exec_hold hc hl rfl⟩

/-- Settles O14: WAIT_ACK polls for a low line, ACK_POLL_MAX times. -/
theorem waitAckDetectsTimesOutOrPolls : Obligations.WaitAckDetectsTimesOutOrPolls := by
  unfold Obligations.WaitAckDetectsTimesOutOrPolls
  exact ⟨rfl, rfl, rfl, fun s hc hl => exec_poll (awaited := false) (e := .ackTimeout) hc hl rfl⟩

/-! ## The unused codes -/

/-- The unused codes decode to the two unused rows, release the pin and show status 00 (R71). -/
theorem decodeState_unused (c : BitVec 4) : 10 ≤ c.toNat →
    (decodeState c = .unused1011 c ∨ decodeState c = .unused1215 c) ∧ pinCode c = 0b01 ∧ statusOf c = 0b00 := by
  revert c
  decide

/-- Settles O20: both rows go to IDLE, whatever the registers are. -/
theorem unusedCodesRecover : Obligations.UnusedCodesRecover := by
  unfold Obligations.UnusedCodesRecover
  exact ⟨decodeState_unused, fun s c hc => ⟨clocked_next hc (s.goto Code.idle), clocked_next hc (s.goto Code.idle)⟩⟩

/-! ## NOP and READ -/

theorem waiting_stateUsed {s : State} (hw : Waiting s) : s.state.toNat ≤ 9 := by
  rcases hw with e | e | e <;> rw [e] <;> decide

/-- R121: in a state that waits for the host the arm accepts the request or leaves the state as it is. -/
theorem stateArm_waiting {s : State} (b : Bool) (hw : Waiting s) (hl : Legal s.state s) :
    stateArm b s = .next (s.await b) := by
  rw [stateArm_used b (waiting_stateUsed hw), inLegal_of_legal hl, legalArm_waiting b hw]

/-- R122: no other arm reads `start`. -/
theorem stateArm_ignores_start {s : State} (hw : ¬ Waiting s) (a b : Bool) : stateArm a s = stateArm b s := by
  simp only [Waiting, not_or] at hw
  obtain ⟨hIdle, hDone, hTimedOut⟩ := hw
  rcases bitVec4_cases s.state with e | e | e | e | e | e | e | e | e | e | hu
  case inl => exact absurd e hIdle
  case inr.inr.inr.inr.inr.inr.inr.inr.inl => exact absurd e hDone
  case inr.inr.inr.inr.inr.inr.inr.inr.inr.inl => exact absurd e hTimedOut
  case inr.inr.inr.inr.inr.inr.inr.inr.inr.inr => rw [stateArm_unused a hu, stateArm_unused b hu]
  all_goals unfold stateArm; rw [e]; rfl

section
variable {s : State} (hc : ConfigOk s.cfg) (hl : s.state.toNat ≤ 9 → Legal s.state s)
include hc hl

theorem clocked_stateArm_waiting (b : Bool) (hw : Waiting s) :
    clocked s (stateArm b s) = .next (s.await b).shiftSync := by
  rw [stateArm_waiting b hw (hl (waiting_stateUsed hw)), clocked_next hc]

theorem clocked_stateArm_next (b : Bool) : ∃ t, clocked s (stateArm b s) = .next t := by
  obtain ⟨u, hu⟩ := stateArm_next b hl
  exact ⟨_, by rw [hu, clocked_next hc]⟩

end

/-- Settles O21: NOP is the arm without a request, and the arm of a state that waits for none does not read it. -/
theorem nopRunsStateAlone : Obligations.NopRunsStateAlone := by
  unfold Obligations.NopRunsStateAlone
  refine fun s hc hl => ⟨clocked_stateArm_waiting hc hl false, fun hw => ?_, clocked_stateArm_next hc hl false⟩
  rw [exec_decodeState, stateArm_ignores_start hw s.input.start false]
  rfl

/-- Settles O22: READ is the arm with a request, which is accepted where one is waited for and not read elsewhere. -/
theorem readAcceptedOrIgnored : Obligations.ReadAcceptedOrIgnored := by
  unfold Obligations.ReadAcceptedOrIgnored
  exact fun s hc hl => ⟨clocked_stateArm_waiting hc hl true,
    fun hw => congrArg (clocked s) (stateArm_ignores_start hw true false), clocked_stateArm_next hc hl true⟩

end Sys2Proof.Machine
end

section
/-! PROOFS. One step of the timing state machine (41_timing_state_machine.md R120, R122, R127, R130): the decoded
instruction it runs, the request it ignores, the counter across it, and the way into DONE. -/

namespace Sys2Proof.Machine

/-! ## The decoded instruction -/

/-- The instruction at the clock edge keeps the configuration, which it has checked (R7). -/
theorem configOk_of_exec_edgeInstr {s t : State} (h : exec (edgeInstr s) s = .next t) : ConfigOk t.cfg := by
  cases hr : s.input.rstN with
  | false =>
    rw [edgeInstr_reset hr] at h
    obtain ⟨hc, he⟩ := guarded_eq_next.mp h
    cases he
    exact hc
  | true =>
    rw [edgeInstr_run hr, exec_decodeState] at h
    obtain ⟨hc, u, hu, rfl⟩ := clocked_eq_next.mp h
    obtain ⟨hcfg, -⟩ := stateArm_frame hu
    exact hcfg ▸ hc

/-- Settles O5: the instruction is the one at the clock edge, and under the configuration it has checked the settling of
the outputs never stops. -/
theorem stepRunsDecodedInstruction : Obligations.StepRunsDecodedInstruction := by
  unfold Obligations.StepRunsDecodedInstruction
  intro s i hi
  have hedge : edgeInstr s = i := by
    rcases hi with ⟨hr, hd⟩ | ⟨hr, rfl⟩
    · rw [decode_state_toNat] at hd
      cases hd
      exact edgeInstr_run hr
    · exact edgeInstr_reset hr
  subst hedge
  refine ⟨fun t h => ?_, fun e h => ?_, fun e h => ?_⟩ <;> rw [step, h]
  · exact settle_eq (s := t.nextCycle) (show ConfigOk t.cfg from configOk_of_exec_edgeInstr h)
  · rfl
  · rfl

/-! ## The request that is ignored -/

/-- What follows the arm at a clock edge takes `line_in` of the input vector and nothing else of it. -/
theorem stateArm_edge_withInput {s : State} {j : Input} (b : Bool) (hline : j.lineIn = s.input.lineIn) :
    (andThen (stateArm b (s.withInput j)) fun u => settle u.shiftSync.nextCycle) =
      andThen (stateArm b s) fun u => settle u.shiftSync.nextCycle := by
  rw [stateArm_withInput (lineS_withInput hline), outcomeWithInput, andThen_assoc]
  refine andThen_congr fun u hu => ?_
  rw [andThen_next, shiftSync_nextCycle_withInput (hline.trans (congrArg _ (stateArm_input hu).symm))]

/-- R122: outside the states that wait for the host, a step reads no `start`. -/
theorem step_withInput_of_not_waiting {s : State} {j : Input} (hw : ¬ Waiting s) (hreset : j.rstN = s.input.rstN)
    (hline : j.lineIn = s.input.lineIn) : step (s.withInput j) = step s := by
  by_cases hc : ConfigOk s.cfg
  · cases hr : s.input.rstN with
    | false =>
      rw [step_reset hc hr, step_reset (s := s.withInput j) hc (hreset.trans hr)]
      rfl
    | true =>
      rw [step_eq_of_run hc hr, step_eq_of_run (s := s.withInput j) hc (hreset.trans hr),
        stateArm_edge_withInput _ hline, stateArm_ignores_start hw]
  · rw [step_of_bad hc, step_of_bad (s := s.withInput j) hc]

/-- Settles O36: the two input vectors differ only in `start`, which no step reads there. -/
theorem requestWhileBusyLeavesNoTrace : Obligations.RequestWhileBusyLeavesNoTrace := by
  unfold Obligations.RequestWhileBusyLeavesNoTrace
  intro s i hw
  exact step_withInput_of_not_waiting (s := s.withInput { i with start := false }) (j := { i with start := true })
    hw rfl rfl

/-! ## The counter -/

/-- R130: a move to another state restarts the count, and a move within a state counts, or changes nothing. -/
theorem ArmMove.restarts_stays_or_counts {b : Bool} {s u : State} (h : ArmMove b s u) :
    (u.state ≠ s.state ∧ u.cnt = 0) ∨ (Waiting s ∧ u = s) ∨
      (Busy s ∧ s.cnt ≠ cntBound s.cfg s.state - 1 ∧ u = s.countUp) := by
  cases h with
  | accept hw _ => exact .inl ⟨by rcases hw with e | e | e <;> rw [e, State.accept_state] <;> decide, rfl⟩
  | stay hw _ => exact .inr (.inl ⟨hw, rfl⟩)
  | count hb he => exact .inr (.inr ⟨hb, he, rfl⟩)
  | advance _ _ => exact .inl ⟨by simp only [State.goto_state]; bv_omega, rfl⟩
  | timeOut c hp _ => exact .inl ⟨by simp only [State.raise_state]; bv_omega, rfl⟩
  | sampleMore hs _ _ _ _ => exact .inl ⟨by rw [hs, State.goto_state]; decide, rfl⟩
  | sampleLast hs _ _ _ _ => exact .inl ⟨by rw [hs, State.goto_state]; decide, rfl⟩

/-- Settles O30: the arm's move says what the count does, and below its bound it does not wrap. -/
theorem counterRestartsWithEveryState : Obligations.CounterRestartsWithEveryState := by
  unfold Obligations.CounterRestartsWithEveryState
  intro s t hi hr hstep
  obtain ⟨hc, ⟨hr', -⟩ | ⟨-, u, hu, rfl⟩⟩ := step_cases hstep
  · rw [hr] at hr'
    cases hr'
  · show (u.state ≠ s.state → u.cnt = 0) ∧ (u.state = s.state → Busy s → u.cnt = s.cnt + 1) ∧
      (u.state = s.state → Waiting s → u.cnt = s.cnt)
    rcases (armMove_of_stateArm hi.stateUsed hu).restarts_stays_or_counts with ⟨hne, h0⟩ | ⟨hw, rfl⟩ | ⟨hb, he, rfl⟩
    · exact ⟨fun _ => h0, fun h => absurd h hne, fun h => absurd h hne⟩
    · exact ⟨fun h => absurd rfl h, fun _ hb => absurd hw (not_waiting_of_busy hb), fun _ _ => rfl⟩
    · exact ⟨fun h => absurd rfl h, fun _ _ => (countUp_cnt_of_bounded hc hi.cntBounded he).1,
        fun _ hw => absurd hw (not_waiting_of_busy hb)⟩

/-! ## The way into DONE -/

/-- R127, R164: the only move into DONE from another state is the sample of bit 39. -/
theorem ArmMove.enters_done {b : Bool} {s u : State} (h : ArmMove b s u) (hu : u.state = Code.done)
    (hs : s.state ≠ Code.done) : s.state = Code.bitDelay ∧ s.cnt = s.cfg.tSample - 1 ∧ s.bitIdx = 39 ∧
      u.bitIdx = s.bitIdx ∧ u.errCause = s.errCause := by
  cases h with
  | accept _ _ => exact absurd hu (show Code.startPulse ≠ Code.done by decide)
  | stay _ _ => exact absurd hu hs
  | count _ _ => exact absurd hu hs
  | advance _ h6 => simp only [State.goto_state] at hu; bv_omega
  | timeOut _ _ _ => exact absurd hu (show Code.timedOut ≠ Code.done by decide)
  | sampleMore _ _ _ _ _ => exact absurd hu (show Code.bitWaitLow ≠ Code.done by decide)
  | sampleLast hd hc _ _ h39 => exact ⟨hd, hc, h39, rfl, rfl⟩

theorem legalArm_bitDelay_last (b : Bool) {s : State} (h : s.state = Code.bitDelay) (hc : s.cnt = s.cfg.tSample - 1) :
    legalArm b s = s.sample := by
  unfold legalArm
  rw [h]
  exact if_pos hc

/-- R164: the sample of bit 39 ends the read, whatever the frame and the level are. -/
theorem sample_bit39 {s : State} (h : s.bitIdx = 39) :
    ∃ f, s.sample = .next ({ s with frame := f }.goto Code.done) := by
  rcases sample_cases s with ⟨-, -, f, -, -, ⟨-, e⟩ | ⟨h39, -⟩⟩ | ⟨h40, -⟩
  · exact ⟨f, e⟩
  · exact absurd h h39
  · rw [h] at h40
    exact absurd h40 (by decide)

/-- Settles O34: a reset and the recovery of an unused code lead to IDLE, and of the moves only the last sample enters
DONE, which it does without a look at the checksum (R209). -/
theorem doneEnteredOnlyAfterLastSample : Obligations.DoneEnteredOnlyAfterLastSample := by
  unfold Obligations.DoneEnteredOnlyAfterLastSample
  constructor
  · intro s t hstep hdone hs
    obtain ⟨-, ⟨-, rfl⟩ | ⟨hr, u, hu, rfl⟩⟩ := step_cases hstep
    · exact absurd hdone (show Code.idle ≠ Code.done by decide)
    · by_cases h9 : s.state.toNat ≤ 9
      · obtain ⟨hd, hc, h39, hbit, hcause⟩ := (armMove_of_stateArm h9 hu).enters_done hdone hs
        exact ⟨hr, hd, hc, h39, hbit.trans h39, hcause⟩
      · rw [stateArm_unused _ (by omega)] at hu
        cases hu
        exact absurd hdone (show Code.idle ≠ Code.done by decide)
  · intro s hc hl hr hs hlast h39
    obtain ⟨f, hf⟩ := sample_bit39 h39
    have harm : stateArm s.input.start s = .next ({ s with frame := f }.goto Code.done) := by
      rw [stateArm_used _ (by rw [hs]; decide), inLegal_of_legal (hs ▸ hl), legalArm_bitDelay_last _ hs hlast, hf]
    exact ⟨_, step_run hc hr harm, rfl⟩

end Sys2Proof.Machine
end

section
/-! PROOFS. The start sequence (41_timing_state_machine.md R124, R125, R133): the runs without a reset, and where a read
is in each cycle from its accept to the first cycle of WAIT_ACK. -/

namespace Sys2Proof.Machine

/-! ## Runs without a reset -/

/-- The block is in a state of the invariant, and the coming `n` cycles have listed input vectors without a reset. -/
structure RunsFor (n : Nat) (s : State) : Prop where
  invariant : Invariant s
  listed : n ≤ s.stimulus.length
  noReset : ∀ i ∈ s.stimulus, i.rstN = true

theorem step_stimulus {s t : State} (h : step s = .next t) : t.stimulus = s.stimulus.tail := by
  obtain ⟨-, ⟨-, rfl⟩ | ⟨-, u, hu, rfl⟩⟩ := step_cases h
  · rfl
  · obtain ⟨-, hstimulus, -⟩ := stateArm_frame hu
    exact congrArg List.tail hstimulus

theorem input_mem_stimulus {s : State} (h : 0 < s.stimulus.length) : s.input ∈ s.stimulus := by
  unfold State.input
  cases hs : s.stimulus with
  | nil => rw [hs] at h; exact absurd h (by decide)
  | cons i r => exact List.mem_cons_self

theorem Invariant.stateArm_eq {s : State} (h : Invariant s) (b : Bool) : stateArm b s = legalArm b s := by
  rw [stateArm_used b h.stateUsed, inLegal_of_legal h.legal]

section
variable {m n : Nat} {s t : State}

theorem RunsFor.mono (h : RunsFor n s) (hm : m ≤ n) : RunsFor m s := { h with listed := hm.trans h.listed }

theorem RunsFor.rstN (h : RunsFor (n + 1) s) : s.input.rstN = true :=
  h.noReset _ (input_mem_stimulus (by have := h.listed; omega))

theorem RunsFor.next (h : RunsFor (n + 1) s) (hstep : step s = .next t) : RunsFor n t where
  invariant := stepKeepsInvariant s t h.invariant hstep
  listed := by
    have := h.listed
    rw [step_stimulus hstep, List.length_tail]
    omega
  noReset i hi := h.noReset i (List.mem_of_mem_tail (step_stimulus hstep ▸ hi))

/-- One step of such a run is that of a legal arm. -/
theorem RunsFor.step_legalArm {u : State} (h : RunsFor (n + 1) s) (ha : legalArm s.input.start s = .next u) :
    step s = .next (settledState u.shiftSync.nextCycle) :=
  step_run h.invariant.configOk h.rstN ((h.invariant.stateArm_eq _).trans ha)

/-- One step of such a run is a move. -/
theorem RunsFor.step_armMove (h : RunsFor (n + 1) s) : ∃ u, ArmMove s.input.start s u ∧
    step s = .next (settledState u.shiftSync.nextCycle) := by
  obtain ⟨u, hu⟩ := stateArm_next s.input.start fun _ => h.invariant.legal
  exact ⟨u, armMove_of_stateArm h.invariant.stateUsed hu, step_run h.invariant.configOk h.rstN hu⟩

end

/-! ## The start sequence -/

/-- Where a read is `j` cycles after the first one of its start pulse (R133). -/
def InStartSequence (j : Nat) (s : State) : Prop :=
  (s.state = Code.startPulse ∧ s.cnt = j ∧ j < s.cfg.tStart) ∨
  (s.state = Code.releaseLine ∧ s.cfg.tStart + s.cnt = j ∧ j < s.cfg.tStart + s.cfg.tRelease) ∨
  (s.state = Code.waitAck ∧ s.cnt = 0 ∧ j = s.cfg.tStart + s.cfg.tRelease)

theorem InStartSequence.busy {j : Nat} {s : State} (h : InStartSequence j s) : Busy s := by
  rcases h with ⟨e, -⟩ | ⟨e, -⟩ | ⟨e, -⟩ <;> rw [Busy, e] <;> decide

/-- R124, R125: the two fixed delays count the sequence, cycle by cycle. -/
theorem InStartSequence.legalArm_next {j : Nat} {s : State} (h : InStartSequence j s) (b : Bool) (hc : ConfigOk s.cfg)
    (hj : j < s.cfg.tStart + s.cfg.tRelease) :
    ∃ u, legalArm b s = .next u ∧ u.cfg = s.cfg ∧ InStartSequence (j + 1) u := by
  have ⟨_, _, hRelease, _⟩ := hc
  rcases h with ⟨e, rfl, hlt⟩ | ⟨e, rfl, hlt⟩ | ⟨-, -, rfl⟩
  · refine ⟨_, legalArm_startPulse b e, ?_⟩
    rcases hold_cases s s.cfg.tStart Code.releaseLine with ⟨hlast, hu⟩ | ⟨hearly, hu⟩ <;> rw [hu]
    · exact ⟨rfl, .inr (.inl ⟨rfl, by simp only [State.goto_cnt, State.goto_cfg]; omega,
        by simp only [State.goto_cfg]; omega⟩)⟩
    · have hlt' : s.cnt + 1 < s.cfg.tStart := by omega
      exact ⟨rfl, .inl ⟨e, countUp_cnt_of_lt hc (tStart_le_counterMax _) hlt', hlt'⟩⟩
  · refine ⟨_, legalArm_releaseLine b e, ?_⟩
    rcases hold_cases s s.cfg.tRelease Code.waitAck with ⟨hlast, hu⟩ | ⟨hearly, hu⟩ <;> rw [hu]
    · exact ⟨rfl, .inr (.inr ⟨rfl, rfl, by simp only [State.goto_cfg]; omega⟩)⟩
    · have hcnt : s.countUp.cnt = s.cnt + 1 := countUp_cnt_of_lt hc (tRelease_le_counterMax _) (by omega)
      exact ⟨rfl, .inr (.inl ⟨e, by rw [hcnt]; exact (Nat.add_assoc ..).symm,
        by simp only [State.countUp_cfg]; omega⟩)⟩
  · omega

section
variable {j m n : Nat} {s : State}

/-- The start sequence runs on by as many cycles as steps, as long as it lasts. -/
theorem InStartSequence.steps_next (h : InStartSequence j s) (hrun : RunsFor (n + m) s)
    (hj : j + n ≤ s.cfg.tStart + s.cfg.tRelease) :
    ∃ t, steps n s = .next t ∧ RunsFor m t ∧ t.cfg = s.cfg ∧ InStartSequence (j + n) t := by
  induction n generalizing s j with
  | zero => exact ⟨s, rfl, hrun.mono (by omega), rfl, h⟩
  | succ n ih =>
    have hrun : RunsFor (n + m + 1) s := hrun.mono (by omega)
    obtain ⟨u, hu, hcfg, hnext⟩ := h.legalArm_next s.input.start hrun.invariant.configOk (by omega)
    have hstep := hrun.step_legalArm hu
    obtain ⟨t, ht, hrest, hcfg', hlast⟩ := ih (s := settledState u.shiftSync.nextCycle) hnext (hrun.next hstep)
      (by simp only [settledState_cfg, State.nextCycle_cfg, State.shiftSync_cfg, hcfg]; omega)
    exact ⟨t, steps_succ_eq_next.mpr ⟨_, hstep, ht⟩, hrest, hcfg'.trans hcfg, by rwa [Nat.add_right_comm] at hlast⟩

section
variable (hw : Waiting s) (hb : s.input.start = true)
include hw hb

/-- R121: the accept begins the start pulse in the next cycle. -/
theorem step_accept (hrun : RunsFor (n + 1) s) :
    ∃ t, step s = .next t ∧ RunsFor n t ∧ t.cfg = s.cfg ∧ InStartSequence 0 t := by
  have hstep := hrun.step_legalArm (legalArm_waiting _ hw)
  rw [hb] at hstep
  obtain ⟨-, hStart, -⟩ := hrun.invariant.configOk
  exact ⟨_, hstep, hrun.next hstep, rfl, .inl ⟨rfl, rfl, hStart⟩⟩

/-- R133: the `j + 1`-st cycle after an accept is cycle `j` of the start sequence. -/
theorem steps_accept (hrun : RunsFor (j + 1 + m) s) (hj : j ≤ s.cfg.tStart + s.cfg.tRelease) :
    ∃ t, steps (j + 1) s = .next t ∧ RunsFor m t ∧ t.cfg = s.cfg ∧ InStartSequence j t := by
  obtain ⟨u, hstep, hrun, hcfg, h0⟩ := step_accept hw hb (n := j + m) (hrun.mono (by omega))
  obtain ⟨t, ht, hrest, hcfg', hlast⟩ := h0.steps_next hrun (by rw [hcfg]; omega)
  exact ⟨t, steps_succ_eq_next.mpr ⟨u, hstep, ht⟩, hrest, hcfg'.trans hcfg, by rwa [Nat.zero_add] at hlast⟩

end

end

/-- Settles O46: the cycle's place in the start sequence gives its state and count, and the invariant its pin. -/
theorem startSequenceTimingIsExact : Obligations.StartSequenceTimingIsExact := by
  unfold Obligations.StartSequenceTimingIsExact
  intro s j hi hw hb hreset hlisted hj
  obtain ⟨t, ht, hrun, hcfg, hplace⟩ := steps_accept (m := 0) hw hb ⟨hi, hlisted, hreset⟩ hj
  obtain ⟨hoe, hout⟩ := hrun.invariant.pinSettled
  refine ⟨t, ht, ?_⟩
  rw [InStartSequence, hcfg] at hplace
  rw [hoe, hout]
  rcases hplace with ⟨e, hcnt, hlt⟩ | ⟨e, hcnt, hlt⟩ | ⟨e, hcnt, heq⟩ <;> rw [e]
  · exact ⟨fun _ => ⟨rfl, hcnt, rfl, rfl⟩, fun _ _ => by omega, fun _ => by omega⟩
  · exact ⟨fun _ => by omega, fun _ _ => ⟨rfl, by omega, rfl, rfl⟩, fun _ => by omega⟩
  · exact ⟨fun _ => by omega, fun _ _ => by omega, fun _ => ⟨rfl, hcnt, rfl⟩⟩

end Sys2Proof.Machine
end

section
/-! PROOFS. How long a read takes (41_timing_state_machine.md R132): from WAIT_ACK on, a bound on the cycles left goes
down with every step of the read, and a lower bound by at most one. -/

namespace Sys2Proof.Machine

/-! ## The cycles left -/

/-- The cycles of one bit, when each state takes `len` cycles. -/
def bitCycles (len : BitVec 4 → Nat) : Nat := len Code.bitWaitLow + len Code.bitWaitHigh + len Code.bitDelay

/-- The cycles of a read after its state `code` from WAIT_ACK on, when each state takes `len` cycles. -/
def cyclesAfter (len : BitVec 4 → Nat) (code : BitVec 4) (bitIdx : BitVec 6) : Nat :=
  match code.toNat with
  | 3 => len Code.ackLow + 40 * bitCycles len
  | 4 => 40 * bitCycles len
  | 5 => len Code.bitWaitHigh + len Code.bitDelay + (39 - bitIdx.toNat) * bitCycles len
  | 6 => len Code.bitDelay + (39 - bitIdx.toNat) * bitCycles len
  | _ => (39 - bitIdx.toNat) * bitCycles len

/-- The cycles of a read left, this one included, when each state takes `len` cycles. -/
def cyclesLeft (len : BitVec 4 → Nat) (s : State) : Nat := len s.state - s.cnt + cyclesAfter len s.state s.bitIdx

/-- The least cycles a state takes when its read goes on: a poll may succeed at once (R126, R161 to R163). -/
def leastCycles (p : Config.Params) (code : BitVec 4) : Nat := if code = Code.bitDelay then p.tSample else 1

/-- The states that follow the start sequence: WAIT_ACK to BIT_DELAY. -/
def Listening (s : State) : Prop := 3 ≤ s.state.toNat ∧ s.state.toNat ≤ 7

theorem Listening.busy {s : State} (h : Listening s) : Busy s := ⟨by have := h.1; omega, h.2⟩

/-- The next state's cycles are the first of those after a state. -/
theorem cyclesAfter_advance (len : BitVec 4 → Nat) {code : BitVec 4} {bitIdx : BitVec 6}
    (h : 3 ≤ code.toNat ∧ code.toNat ≤ 6) (h0 : code.toNat ≤ 4 → bitIdx = 0) :
    cyclesAfter len code bitIdx = len (code + 1) + cyclesAfter len (code + 1) bitIdx := by
  rcases bitVec4_cases code with rfl | rfl | rfl | rfl | rfl | rfl | rfl | rfl | rfl | rfl | hu
  case inr.inr.inr.inl => rfl
  case inr.inr.inr.inr.inl =>
    rw [h0 (by decide)]
    show 40 * bitCycles len = len Code.bitWaitLow + (len Code.bitWaitHigh + len Code.bitDelay + 39 * bitCycles len)
    unfold bitCycles
    omega
  case inr.inr.inr.inr.inr.inl => exact Nat.add_assoc ..
  case inr.inr.inr.inr.inr.inr.inl => rfl
  case inr.inr.inr.inr.inr.inr.inr.inr.inr.inr => omega
  all_goals exact absurd h (by decide)

/-- The next bit's cycles are the first of those after a bit. -/
theorem cyclesAfter_sampleMore (len : BitVec 4 → Nat) {bitIdx : BitVec 6} (h : bitIdx.toNat < 39) :
    cyclesAfter len Code.bitDelay bitIdx =
      len Code.bitWaitLow + cyclesAfter len Code.bitWaitLow (bitIdx + 1) := by
  have hbits : 39 - bitIdx.toNat = 39 - (bitIdx + 1).toNat + 1 := by bv_omega
  show (39 - bitIdx.toNat) * bitCycles len = len Code.bitWaitLow +
    (len Code.bitWaitHigh + len Code.bitDelay + (39 - (bitIdx + 1).toNat) * bitCycles len)
  rw [hbits, Nat.succ_mul]
  generalize (39 - (bitIdx + 1).toNat) * bitCycles len = rest
  unfold bitCycles
  omega

theorem leastCycles_of_poll (p : Config.Params) {code : BitVec 4} (h : code.toNat ≤ 6) : leastCycles p code = 1 :=
  if_neg (by rintro rfl; exact absurd h (by decide))

/-- One move of a read from WAIT_ACK on ends the read, or takes a cycle of those it has at most left, and no more than a
cycle of those it has at least left. -/
theorem ArmMove.takes_a_cycle {b : Bool} {s u : State} (hm : ArmMove b s u) (hi : Invariant s) (h : Listening s) :
    (Terminal u ∧ (u.state = Code.done → cyclesLeft (leastCycles s.cfg) s ≤ 1)) ∨
    (Listening u ∧ cyclesLeft (cntBound s.cfg) u + 1 ≤ cyclesLeft (cntBound s.cfg) s ∧
      cyclesLeft (leastCycles s.cfg) s ≤ cyclesLeft (leastCycles s.cfg) u + 1) := by
  have ⟨h3, h7⟩ := h
  have hbound := hi.cntBounded
  cases hm with
  | accept hw _ => exact absurd hw (not_waiting_of_busy h.busy)
  | stay hw _ => exact absurd hw (not_waiting_of_busy h.busy)
  | count _ he =>
    have hcnt := (countUp_cnt_of_bounded hi.configOk hbound he).1
    refine .inr ⟨h, ?_, ?_⟩ <;>
    · simp only [cyclesLeft, hcnt, State.countUp_state, State.countUp_bitIdx]
      omega
  | advance _ h6 =>
    have hadvance (len : BitVec 4 → Nat) := cyclesAfter_advance len ⟨h3, h6⟩ hi.bitIdxBeforeBits
    refine .inr ⟨⟨by simp only [State.goto_state]; bv_omega, by simp only [State.goto_state]; bv_omega⟩, ?_, ?_⟩
    · simp only [cyclesLeft, State.goto_state, State.goto_cnt, State.goto_bitIdx, hadvance]
      omega
    · simp only [cyclesLeft, State.goto_state, State.goto_cnt, State.goto_bitIdx, hadvance,
        leastCycles_of_poll s.cfg h6]
      omega
  | timeOut c _ _ => exact .inl ⟨.inr rfl, fun e => absurd e (show Code.timedOut ≠ Code.done by decide)⟩
  | sampleMore hs hlast _ _ hb =>
    have hmore (len : BitVec 4 → Nat) := cyclesAfter_sampleMore len hb
    have hleast : leastCycles s.cfg Code.bitDelay = s.cfg.tSample := rfl
    rw [hs] at hbound
    refine .inr ⟨show 3 ≤ Code.bitWaitLow.toNat ∧ Code.bitWaitLow.toNat ≤ 7 by decide, ?_, ?_⟩ <;>
    · simp only [cyclesLeft, State.goto_state, State.goto_cnt, State.goto_bitIdx, hs, hmore, hleast]
      omega
  | sampleLast hs hlast _ _ hb =>
    refine .inl ⟨.inl rfl, fun _ => ?_⟩
    have hleast : leastCycles s.cfg Code.bitDelay = s.cfg.tSample := rfl
    have hafter : cyclesAfter (leastCycles s.cfg) Code.bitDelay 39 = 0 := Nat.zero_mul _
    rw [cyclesLeft, hs, hb, hafter, hleast]
    omega

/-! ## The end of a read -/

/-- A read that is busy in the cycle of `s` ends in `t` after `j` steps, and is busy until then. -/
def ReadEnds (j : Nat) (s t : State) : Prop :=
  steps j s = .next t ∧ Terminal t ∧ ∀ k < j, ∃ u, steps k s = .next u ∧ Busy u

theorem readEnds_one {s t : State} (hb : Busy s) (hstep : step s = .next t) (ht : Terminal t) : ReadEnds 1 s t := by
  refine ⟨steps_succ_eq_next.mpr ⟨t, hstep, rfl⟩, ht, fun k hk => ?_⟩
  obtain rfl : k = 0 := by omega
  exact ⟨s, rfl, hb⟩

theorem ReadEnds.step {j : Nat} {s u t : State} (h : ReadEnds j u t) (hb : Busy s) (hstep : step s = .next u) :
    ReadEnds (j + 1) s t := by
  obtain ⟨hrun, ht, hbusy⟩ := h
  refine ⟨steps_succ_eq_next.mpr ⟨u, hstep, hrun⟩, ht, fun k hk => ?_⟩
  cases k with
  | zero => exact ⟨s, rfl, hb⟩
  | succ k =>
    obtain ⟨v, hv, hvb⟩ := hbusy k (by omega)
    exact ⟨v, steps_succ_eq_next.mpr ⟨u, hstep, hv⟩, hvb⟩

theorem one_le_cyclesLeft {s : State} (hi : Invariant s) : 1 ≤ cyclesLeft (cntBound s.cfg) s := by
  have := hi.cntBounded
  unfold cyclesLeft
  omega

theorem RunsFor.takes_a_cycle {n : Nat} {s : State} (hrun : RunsFor (n + 1) s) (h : Listening s) :
    ∃ t, step s = .next t ∧
      ((Terminal t ∧ (t.state = Code.done → cyclesLeft (leastCycles s.cfg) s ≤ 1)) ∨
      (Listening t ∧ cyclesLeft (cntBound s.cfg) t + 1 ≤ cyclesLeft (cntBound s.cfg) s ∧
        cyclesLeft (leastCycles s.cfg) s ≤ cyclesLeft (leastCycles s.cfg) t + 1)) := by
  obtain ⟨u, hm, hstep⟩ := hrun.step_armMove
  exact ⟨_, hstep, hm.takes_a_cycle hrun.invariant h⟩

/-- R132 from WAIT_ACK on, by induction on the cycles listed. -/
theorem exists_readEnds {n : Nat} {s : State} (hrun : RunsFor n s) (hl : Listening s)
    (hn : cyclesLeft (cntBound s.cfg) s ≤ n) :
    ∃ j t, ReadEnds j s t ∧ j ≤ cyclesLeft (cntBound s.cfg) s ∧
      (t.state = Code.done → cyclesLeft (leastCycles s.cfg) s ≤ j) := by
  have hpos := one_le_cyclesLeft hrun.invariant
  induction n generalizing s with
  | zero => omega
  | succ n ih =>
    obtain ⟨u, hstep, ⟨hend, hleast⟩ | ⟨hl', hmost, hleast⟩⟩ := hrun.takes_a_cycle hl
    · exact ⟨1, u, readEnds_one hl.busy hstep hend, hpos, hleast⟩
    · have hnext := hrun.next hstep
      rw [← step_cfg hstep] at hmost hleast hn ⊢
      obtain ⟨j, t, hends, hj, hdone⟩ := ih hnext hl' (by omega) (one_le_cyclesLeft hnext.invariant)
      exact ⟨j + 1, t, hends.step hl.busy hstep, by omega, fun h => by have := hdone h; omega⟩

/-- The cycles left in the first cycle of WAIT_ACK. -/
theorem cyclesLeft_waitAck (len : BitVec 4 → Nat) {s : State} (hs : s.state = Code.waitAck) (h0 : s.cnt = 0) :
    cyclesLeft len s = len Code.waitAck + len Code.ackLow +
      40 * (len Code.bitWaitLow + len Code.bitWaitHigh + len Code.bitDelay) := by
  rw [cyclesLeft, hs, h0]
  exact (Nat.add_assoc ..).symm

/-- Settles O48: the start sequence takes the block to WAIT_ACK, busy all along, and from there the cycles left bound
the read from above and from below. -/
theorem everyReadEndsWithinBound : Obligations.EveryReadEndsWithinBound := by
  unfold Obligations.EveryReadEndsWithinBound
  intro s hi hw hb hreset hlisted
  have hrun : RunsFor s.stimulus.length s := ⟨hi, le_rfl, hreset⟩
  obtain ⟨w, hsteps, hlistening, hcfg, hplace⟩ := steps_accept hw hb (j := s.cfg.tStart + s.cfg.tRelease)
    (m := s.cfg.ackPollMax + s.cfg.phasePollMax + 40 * (2 * s.cfg.phasePollMax + s.cfg.tSample))
    (hrun.mono (by omega)) le_rfl
  rw [InStartSequence, hcfg] at hplace
  obtain ⟨-, -, hlt⟩ | ⟨-, -, hlt⟩ | ⟨hstate, hcnt, -⟩ := hplace
  · omega
  · omega
  have hmost : cyclesLeft (cntBound w.cfg) w = s.cfg.ackPollMax + s.cfg.phasePollMax +
      40 * (s.cfg.phasePollMax + s.cfg.phasePollMax + s.cfg.tSample) := by
    rw [cyclesLeft_waitAck _ hstate hcnt, hcfg]
    rfl
  have hleast : cyclesLeft (leastCycles w.cfg) w = 1 + 1 + 40 * (1 + 1 + s.cfg.tSample) := by
    rw [cyclesLeft_waitAck _ hstate hcnt, hcfg]
    rfl
  obtain ⟨j, t, ⟨hend, hterminal, hbusy⟩, hj, hdone⟩ := exists_readEnds hlistening
    (by rw [Listening, hstate]; decide) (by omega)
  refine ⟨s.cfg.tStart + s.cfg.tRelease + 1 + j, t, ?_, hterminal, by omega, fun k hk hkj => ?_, by omega,
    fun h => by have := hdone h; omega⟩
  · rw [steps_add, hsteps, andThen_next, hend]
  · by_cases hstart : k ≤ s.cfg.tStart + s.cfg.tRelease + 1
    · obtain ⟨i, rfl⟩ : ∃ i, k = i + 1 := ⟨k - 1, by omega⟩
      obtain ⟨u, hu, -, -, hplace⟩ := steps_accept hw hb (j := i) (m := 0) (hrun.mono (by omega)) (by omega)
      exact ⟨u, hu, hplace.busy⟩
    · obtain ⟨i, rfl⟩ := Nat.exists_eq_add_of_le (Nat.le_of_not_le hstart)
      obtain ⟨u, hu, hub⟩ := hbusy i (by omega)
      exact ⟨u, by rw [steps_add, hsteps, andThen_next, hu], hub⟩

end Sys2Proof.Machine
end

section
/-! PROOFS. The rows of the bit sample synchronizer (42_bit_sample_synchronizer.md R161 to R165): three bounded polls, and
the delay that ends in the sample. -/

namespace Sys2Proof.Machine

/-- Settles O15: ACK_LOW polls for a high line, PHASE_POLL_MAX times. -/
theorem ackLowDetectsTimesOutOrPolls : Obligations.AckLowDetectsTimesOutOrPolls := by
  unfold Obligations.AckLowDetectsTimesOutOrPolls
  exact ⟨rfl, rfl, rfl, fun s hc hl => exec_poll (awaited := true) (e := .ackEndTimeout) hc hl rfl⟩

/-- Settles O16: BIT_WAIT_LOW polls for a low line, PHASE_POLL_MAX times. -/
theorem bitWaitLowDetectsTimesOutOrPolls : Obligations.BitWaitLowDetectsTimesOutOrPolls := by
  unfold Obligations.BitWaitLowDetectsTimesOutOrPolls
  exact ⟨rfl, rfl, rfl, fun s hc hl => exec_poll (awaited := false) (e := .bitTimeout) hc hl rfl⟩

/-- Settles O17: BIT_WAIT_HIGH polls for a high line, PHASE_POLL_MAX times. -/
theorem bitWaitHighDetectsTimesOutOrPolls : Obligations.BitWaitHighDetectsTimesOutOrPolls := by
  unfold Obligations.BitWaitHighDetectsTimesOutOrPolls
  exact ⟨rfl, rfl, rfl, fun s hc hl => exec_poll (awaited := true) (e := .bitTimeout) hc hl rfl⟩

section
variable {s u : State} (hc : ConfigOk s.cfg) (hl : Legal Code.bitDelay s)
include hc hl

theorem exec_bitDelay_early (he : s.cnt ≠ s.cfg.tSample - 1) : exec .bitDelay s = .next s.countUp.shiftSync :=
  exec_of_legal hc hl (congrArg (clocked s <| inLegal _ s ·) (if_neg he))

theorem exec_bitDelay_last (he : s.cnt = s.cfg.tSample - 1) (hs : s.sample = .next u) :
    exec .bitDelay s = .next u.shiftSync :=
  exec_of_legal hc hl (congrArg (clocked s <| inLegal _ s ·) ((if_pos he).trans hs))

end

/-- Settles O18: BIT_DELAY counts before its last cycle; in it the sample writes one byte, which R33's bound on the bit
index puts in the frame store, and the bit index decides where the read goes on. -/
theorem bitDelayCountsThenSamples : Obligations.BitDelayCountsThenSamples := by
  unfold Obligations.BitDelayCountsThenSamples
  refine ⟨rfl, rfl, rfl, fun s hc hl => ⟨exec_bitDelay_early hc hl, fun hlast => ?_⟩⟩
  have ⟨_, hbit, _⟩ := hl
  obtain ⟨-, old, f, hread, hwrite, hend⟩ | ⟨h40, -⟩ := sample_cases s
  case inr => omega
  refine ⟨old, f, hread, ?_, fun k hk => memRead_memWrite_other hwrite hk, ?_⟩
  · rw [Nat.mul_comm, ← shiftIn_toNat]
    exact memRead_memWrite_same hwrite
  · obtain ⟨h39, hs⟩ | ⟨h39, hs⟩ := hend
    · rw [if_pos h39, exec_bitDelay_last hc hl hlast hs]
      rfl
    · rw [if_neg h39, exec_bitDelay_last hc hl hlast hs]
      rfl

end Sys2Proof.Machine
end

section
/-! PROOFS. The synchroniser (42_bit_sample_synchronizer.md R160, R169): each step without a reset takes one level off
those that `line_s` goes through. -/

namespace Sys2Proof.Machine

/-- `line_s` is the first of the levels seen from this cycle on. -/
theorem lineS_of_seenLine {s : State} {b : Bool} {r : List Bool} (h : seenLine s = b :: r) : s.lineS = b := by
  unfold seenLine at h
  rcases s.sync.eq_nil_or_concat' with hs | ⟨c, x, hs⟩
  · cases hi : s.stimulus with
    | nil => simp [hs, hi] at h
    | cons i q => simp_all [State.lineS, State.input]
  · simp_all [State.lineS]

/-- R160: a clock edge without a reset shifts the chain. -/
theorem step_sync {s t : State} (hr : s.input.rstN = true) (h : step s = .next t) : t.sync = shiftedSync s := by
  obtain ⟨-, ⟨hreset, -⟩ | ⟨-, u, hu, rfl⟩⟩ := step_cases h
  · rw [hr] at hreset
    cases hreset
  · obtain ⟨-, -, -, hsync, -⟩ := stateArm_frame hu
    show (u.input.lineIn :: u.sync).dropLast = (s.input.lineIn :: s.sync).dropLast
    rw [stateArm_input hu, hsync]

/-- R160: a clock edge without a reset takes the first level off those seen. -/
theorem seenLine_step {s t : State} (hlisted : 0 < s.stimulus.length) (hr : s.input.rstN = true)
    (h : step s = .next t) : seenLine t = (seenLine s).tail := by
  obtain ⟨i, q, hi⟩ := List.exists_cons_of_length_pos hlisted
  have hin : s.input = i := by rw [State.input, hi]
  have hchain : (shiftedSync s).reverse = (s.sync.reverse ++ [i.lineIn]).tail := by
    rw [shiftedSync, hin, ← List.tail_reverse, List.reverse_cons]
  rw [seenLine, seenLine, step_sync hr h, step_stimulus h, hchain, hi]
  simp only [List.tail_cons, List.map_cons]
  rw [← List.tail_append_of_ne_nil (by simp), List.append_assoc]
  rfl

section
variable {n : Nat} {s t : State} (hlisted : n ≤ s.stimulus.length) (hreset : ∀ i ∈ s.stimulus.take n, i.rstN = true)
  (hrun : steps n s = .next t)
include hlisted hreset hrun

/-- R160, R169: n steps without a reset take the first n levels off those seen, and keep the chain's depth. -/
theorem seenLine_steps : seenLine t = (seenLine s).drop n ∧ t.sync.length = s.sync.length := by
  induction n generalizing s with
  | zero =>
    cases hrun
    exact ⟨rfl, rfl⟩
  | succ n ih =>
    obtain ⟨u, hstep, hrest⟩ := steps_succ_eq_next.mp hrun
    obtain ⟨i, q, hi⟩ := List.exists_cons_of_length_pos (Nat.lt_of_lt_of_le n.succ_pos hlisted)
    have hr : s.input.rstN = true := by
      rw [State.input, hi]
      exact hreset i (by simp [hi])
    have hq : u.stimulus = q := by rw [step_stimulus hstep, hi, List.tail_cons]
    rw [hi] at hlisted hreset
    obtain ⟨hseen, hlength⟩ := ih (s := u) (by rw [hq]; exact Nat.le_of_succ_le_succ hlisted)
      (fun j hj => hreset j (List.mem_cons_of_mem i (hq ▸ hj))) hrest
    refine ⟨?_, ?_⟩
    · rw [hseen, seenLine_step (by simp [hi]) hr hstep, List.drop_tail]
    · rw [hlength, step_sync hr hstep, shiftedSync_length]

/-- R160: the chain holds the last levels of the line, newest first, and what is left of the old chain. -/
theorem sync_steps :
    t.sync = (((s.stimulus.take n).map Input.lineIn).reverse ++ s.sync).take s.sync.length := by
  obtain ⟨hseen, hlength⟩ := seenLine_steps hlisted hreset hrun
  apply List.reverse_injective
  calc t.sync.reverse
    _ = ((seenLine s).drop n).take s.sync.length := by rw [← hseen, seenLine, List.take_left' (by simp [hlength])]
    _ = ((seenLine s).take (s.sync.reverse.length + n)).drop n := by
      rw [List.take_drop, List.length_reverse, Nat.add_comm]
    _ = (s.sync.reverse ++ (s.stimulus.take n).map Input.lineIn).drop n := by
      rw [seenLine, List.take_length_add_append, List.map_take]
    _ = _ := by
      rw [List.reverse_take, List.reverse_append, List.reverse_reverse]
      congr 1
      simp [hlisted]

/-- R160: `line_s` is the n-th of the levels seen n cycles ago. -/
theorem lineS_steps (hn : n < (seenLine s).length) : t.lineS = (seenLine s)[n] :=
  lineS_of_seenLine ((seenLine_steps hlisted hreset hrun).1.trans (List.drop_eq_getElem_cons hn))

end

/-- Settles O45: the chain is what the steps leave of the levels seen, and `line_s` the first of those: an old level of
the chain while fewer steps than its depth were taken, and from then on a listed level of the line. -/
theorem synchroniserDelaysByItsDepth : Obligations.SynchroniserDelaysByItsDepth := by
  unfold Obligations.SynchroniserDelaysByItsDepth
  intro s t n hlisted hreset hrun
  have hlength := (seenLine_steps hlisted hreset hrun).2
  have hseen : (seenLine s).length = s.sync.length + s.stimulus.length := by simp [seenLine]
  refine ⟨sync_steps hlisted hreset hrun, fun hempty => ?_, fun hne hn => ?_, fun hones hn => ?_⟩
  · have hempty : t.sync = [] := List.length_eq_zero_iff.mp (by rw [hlength, hempty]; rfl)
    rw [State.lineS, hempty]
    rfl
  · have hpos := List.length_pos_iff.mpr hne
    rw [lineS_steps hlisted hreset hrun (by omega)]
    simp only [seenLine]
    rw [List.getElem_append_right (by simpa using hn), List.getD_eq_getElem _ _ (by simp; omega)]
    simp only [List.length_reverse]
  · rw [lineS_steps hlisted hreset hrun (by omega)]
    simp only [seenLine]
    rw [List.getElem_append_left (by simpa using hn)]
    exact (List.eq_replicate_iff.mp hones).2 _ (List.mem_reverse.mp (List.getElem_mem _))

end Sys2Proof.Machine
end

section
/-! PROOFS. A read under the waveform conditions (42_bit_sample_synchronizer.md R167): rules that say, state by state, how
a read goes on with the levels `line_s` takes, put together along the ack and the bits. -/

namespace Sys2Proof.Machine

/-! ## A read and the levels it hears -/

/-- Where a read is: its configuration, state and count, the bits it has received, and levels that `line_s` takes from
this cycle on, all of them in listed cycles without a reset. -/
structure Hears (p : Config.Params) (code : BitVec 4) (cnt : Nat) (bits levels : List Bool) (s : State) : Prop where
  runs : RunsFor levels.length s
  cfg_eq : s.cfg = p
  state_eq : s.state = code
  cnt_eq : s.cnt = cnt
  received : Received bits s
  heard : levels <+: seenLine s

/-- A read that is so ends in DONE with the bits `out` in the frame, and is busy until then. -/
def Delivers (p : Config.Params) (out : List Bool) (code : BitVec 4) (cnt : Nat) (bits levels : List Bool) : Prop :=
  ∀ s, Hears p code cnt bits levels s → ∃ j t, ReadEnds j s t ∧ t.state = Code.done ∧ Received out t

/-- The states that poll the line, WAIT_ACK to BIT_WAIT_HIGH. -/
abbrev Polling (code : BitVec 4) : Prop := 3 ≤ code.toNat ∧ code.toNat ≤ 6

/-- The level a polling state waits for (R126, R161 to R163). -/
def awaitedLevel (code : BitVec 4) : Bool := decide (code = Code.ackLow ∨ code = Code.bitWaitHigh)

/-- The arms of the polling states, as one: the awaited level leads to the next code. -/
theorem legalArm_polling (b : Bool) {s : State} (h : Polling s.state) : ∃ c, legalArm b s =
    .next (s.poll (awaitedLevel s.state) (cntBound s.cfg s.state) (s.state + 1) c) := by
  have ⟨h3, h6⟩ := h
  have : s.state = Code.waitAck ∨ s.state = Code.ackLow ∨ s.state = Code.bitWaitLow ∨ s.state = Code.bitWaitHigh := by
    bv_omega
  unfold legalArm
  rcases this with e | e | e | e <;> rw [e] <;> exact ⟨_, rfl⟩

section
variable {p : Config.Params} {out bits bits' levels r : List Bool} {code code' : BitVec 4} {cnt cnt' : Nat} {b : Bool}
  {s u : State}

theorem Hears.lineS (h : Hears p code cnt bits (b :: r) s) : s.lineS = b := by
  obtain ⟨q, hq⟩ := h.heard
  exact lineS_of_seenLine hq.symm

/-- The arm takes one level off those heard. -/
theorem Hears.next (h : Hears p code cnt bits (b :: r) s)
    (ha : legalArm s.input.start s = .next u) :
    ∃ t, step s = .next t ∧ Hears p u.state u.cnt (bitsAfterEdge bits s) r t := by
  have hstep := h.runs.step_legalArm ha
  have hseen := seenLine_step (Nat.lt_of_lt_of_le (Nat.succ_pos _) h.runs.listed) h.runs.rstN hstep
  obtain ⟨q, hq⟩ := h.heard
  exact ⟨_, hstep, h.runs.next hstep, (step_cfg hstep).trans h.cfg_eq, rfl, rfl,
    frameHoldsBitsReceived _ _ _ h.runs.invariant h.received hstep, q, by rw [hseen, ← hq]; rfl⟩

/-- The count of a state goes on, as long as it is below the state's bound (R24). -/
theorem Hears.countUp_cnt (h : Hears p code cnt bits levels s) (hcnt : cnt + 1 < cntBound p code) :
    s.countUp.cnt = cnt + 1 := by
  have hbound := h.runs.invariant.cntBounded
  rw [← h.cfg_eq, ← h.state_eq, ← h.cnt_eq] at hcnt
  rw [← h.cnt_eq, (countUp_cnt_of_bounded h.runs.invariant.configOk hbound (by omega)).1]

/-- No bit is received but in the last cycle of BIT_DELAY. -/
theorem Hears.bitsAfterEdge_eq (h : Hears p code cnt bits (b :: r) s) (hbusy : 1 ≤ code.toNat ∧ code.toNat ≤ 7)
    (he : code = Code.bitDelay → cnt ≠ p.tSample - 1) : bitsAfterEdge bits s = bits :=
  bitsAfterEdge_busy bits h.runs.rstN (by rwa [Busy, h.state_eq]) (by rwa [h.state_eq, h.cnt_eq, h.cfg_eq])

/-! ## One cycle -/

/-- The read is over in DONE. -/
theorem delivers_done : Delivers p bits Code.done cnt bits levels :=
  fun s h => ⟨0, s, ⟨rfl, .inl h.state_eq, fun _ hk => absurd hk (Nat.not_lt_zero _)⟩, h.state_eq, h.received⟩

/-- A busy state goes on with what its arm leaves. -/
theorem delivers_cons (hbusy : 1 ≤ code.toNat ∧ code.toNat ≤ 7)
    (harm : ∀ s, Hears p code cnt bits (b :: r) s → ∃ u, legalArm s.input.start s = .next u ∧
      u.state = code' ∧ u.cnt = cnt' ∧ bitsAfterEdge bits s = bits')
    (h : Delivers p out code' cnt' bits' r) : Delivers p out code cnt bits (b :: r) := by
  intro s hs
  obtain ⟨u, ha, rfl, rfl, rfl⟩ := harm s hs
  have hb : Busy s := by rwa [Busy, hs.state_eq]
  obtain ⟨t, hstep, ht⟩ := hs.next ha
  obtain ⟨j, v, hends, hdone, hout⟩ := h t ht
  exact ⟨j + 1, v, hends.step hb hstep, hdone, hout⟩

section
variable (hp : Polling code)
include hp

theorem Hears.bitsAfterEdge_polling (h : Hears p code cnt bits (b :: r) s) : bitsAfterEdge bits s = bits :=
  h.bitsAfterEdge_eq (by omega) (fun e => by subst e; exact absurd hp (by decide))

/-- The awaited level takes a poll to the next state. -/
theorem delivers_detect (hb : b = awaitedLevel code) (h : Delivers p out (code + 1) 0 bits r) :
    Delivers p out code cnt bits (b :: r) := by
  refine delivers_cons (by omega) (fun s hs => ?_) h
  obtain ⟨c, ha⟩ := legalArm_polling (s := s) s.input.start (hs.state_eq ▸ hp)
  rw [State.poll, if_pos (by rw [hs.lineS, hb, hs.state_eq])] at ha
  exact ⟨_, ha, by rw [State.goto_state, hs.state_eq], rfl, hs.bitsAfterEdge_polling hp⟩

/-- The other level is polled again before the last poll. -/
theorem delivers_pollAgain (hb : b ≠ awaitedLevel code) (hcnt : cnt + 1 < cntBound p code)
    (h : Delivers p out code (cnt + 1) bits r) : Delivers p out code cnt bits (b :: r) := by
  refine delivers_cons (by omega) (fun s hs => ?_) h
  obtain ⟨c, ha⟩ := legalArm_polling (s := s) s.input.start (hs.state_eq ▸ hp)
  rw [State.poll, if_neg (by rwa [hs.lineS, hs.state_eq]),
    if_neg (by rw [hs.cnt_eq, hs.cfg_eq, hs.state_eq]; omega)] at ha
  exact ⟨_, ha, hs.state_eq, hs.countUp_cnt hcnt, hs.bitsAfterEdge_polling hp⟩

end

/-- BIT_DELAY counts, whatever the level is. -/
theorem delivers_delayCount (hcnt : cnt + 1 < p.tSample) (h : Delivers p out Code.bitDelay (cnt + 1) bits r) :
    Delivers p out Code.bitDelay cnt bits (b :: r) := by
  refine delivers_cons (by decide) (fun s hs => ?_) h
  have hearly : s.cnt ≠ s.cfg.tSample - 1 := by rw [hs.cnt_eq, hs.cfg_eq]; omega
  exact ⟨_, legalArm_bitDelay_early _ hs.state_eq hearly, hs.state_eq, hs.countUp_cnt hcnt,
    hs.bitsAfterEdge_eq (by decide) fun _ => by omega⟩

/-- BIT_DELAY's last cycle receives the level. -/
theorem delivers_sample (hcnt : cnt = p.tSample - 1)
    (h : Delivers p out (if (bits ++ [b]).length = 40 then Code.done else Code.bitWaitLow) 0 (bits ++ [b]) r) :
    Delivers p out Code.bitDelay cnt bits (b :: r) := by
  refine delivers_cons (by decide) (fun s hs => ?_) h
  have hlast : s.cnt = s.cfg.tSample - 1 := by rw [hs.cnt_eq, hs.cfg_eq, hcnt]
  have hbits := bitsAfterEdge_sample bits hs.runs.rstN hs.state_eq hlast
  rw [hs.lineS] at hbits
  have hlength : bits.length = s.bitIdx.toNat := by
    rw [hs.received.1, bitsSampled_of_not_done (by rw [hs.state_eq]; decide)]
  rw [List.length_append, List.length_singleton, hlength]
  have harm := legalArm_bitDelay_last s.input.start hs.state_eq hlast
  obtain ⟨-, old, f, -, -, ⟨h39, e⟩ | ⟨h39, e⟩⟩ | ⟨h40, -⟩ := sample_cases s
  · exact ⟨_, harm.trans e, by rw [if_pos (by rw [h39]; rfl)]; rfl, rfl, hbits⟩
  · exact ⟨_, harm.trans e, by rw [if_neg (by bv_omega)]; rfl, rfl, hbits⟩
  · have := hs.runs.invariant.bitIdxBounded
    omega

/-! ## The cycles of a state -/

/-- A poll in its bound takes the level that ends it and the levels before it. -/
theorem delivers_poll (hp : Polling code) {n : Nat} {a : Bool} (ha : a = awaitedLevel code)
    (hn : cnt + n < cntBound p code) (h : Delivers p out (code + 1) 0 bits r) :
    Delivers p out code cnt bits (List.replicate n (!a) ++ a :: r) := by
  induction n generalizing cnt with
  | zero => exact delivers_detect hp ha h
  | succ n ih => exact delivers_pollAgain hp (by simp [ha]) (by omega) (ih (by omega))

/-- The delay takes T_SAMPLE levels and receives the last one of them. -/
theorem delivers_delay {early : List Bool} (hearly : cnt + early.length + 1 = p.tSample)
    (h : Delivers p out (if (bits ++ [b]).length = 40 then Code.done else Code.bitWaitLow) 0 (bits ++ [b]) r) :
    Delivers p out Code.bitDelay cnt bits (early ++ b :: r) := by
  induction early generalizing cnt with
  | nil => exact delivers_sample (by simp only [List.length_nil] at hearly; omega) h
  | cons c early ih =>
    rw [List.length_cons] at hearly
    exact delivers_delayCount (by omega) (ih (by omega))

end

end Sys2Proof.Machine
end

section
/-! PROOFS. The read of a sensor's frame (42_bit_sample_synchronizer.md R165, R167): the ack, then bit by bit, each with
its low period, its high level, and the levels its delay leaves for the next bit. -/

namespace Sys2Proof.Machine

/-! ## The levels of the bits -/

/-- The levels of some bits and of the `tail` low cycles after them, without the low period they begin with. -/
def levelsAfterLow (tail : Nat) : List BitWave → List Bool
  | [] => []
  | w :: r => List.replicate w.high true ++ (waveLevels r ++ List.replicate tail false)

theorem waveLevels_eq (tail : Nat) (ws : List BitWave) : waveLevels ws ++ List.replicate tail false =
    List.replicate (nextLow tail ws) false ++ levelsAfterLow tail ws := by
  cases ws with
  | nil => simp [waveLevels, nextLow, levelsAfterLow]
  | cons w r => simp [waveLevels, nextLow, levelsAfterLow]

/-- The polls of BIT_WAIT_LOW and BIT_WAIT_HIGH end in their bound on `m` high levels and then `k` low ones before a
high level. -/
def GapOk (p : Config.Params) (m k : Nat) : Prop := m < p.phasePollMax ∧ 1 ≤ k ∧ k ≤ p.phasePollMax

/-- (B1) to (B4): after the first high level of a bit the delay's last level is the bit, and the levels left lead to the
next bit in the bounds of the polls. -/
theorem WaveOk.levels {p : Config.Params} {tail : Nat} {w : BitWave} {r : List BitWave} (h : WaveOk p tail w r)
    (hT : 1 ≤ p.tSample) :
    ∃ early m k, early.length + 1 = p.tSample ∧ (r ≠ [] → GapOk p m k) ∧
      levelsAfterLow tail (w :: r) = true :: (early ++ waveBit p.tSample w ::
        (List.replicate m true ++ (List.replicate k false ++ levelsAfterLow tail r))) := by
  obtain ⟨hhigh, h⟩ := h
  rw [levelsAfterLow, waveLevels_eq]
  by_cases hb : waveBit p.tSample w = true
  · rw [if_pos hb] at h
    have hlong : p.tSample + 1 ≤ w.high := of_decide_eq_true hb
    obtain ⟨m, hm⟩ : ∃ m, w.high = p.tSample + 1 + m := Nat.exists_eq_add_of_le hlong
    obtain ⟨i, hi⟩ : ∃ i, p.tSample = 1 + i := Nat.exists_eq_add_of_le hT
    refine ⟨List.replicate i true, m, nextLow tail r, by rw [List.length_replicate]; omega, fun hr => ?_, ?_⟩
    · obtain h | ⟨hmax, hk⟩ := h
      · exact absurd h hr
      · exact ⟨by omega, hk⟩
    · rw [hb, hm, hi]
      simp only [List.replicate_add, List.replicate_one, List.append_assoc, List.cons_append, List.nil_append]
  · rw [if_neg hb] at h
    have hshort : w.high ≤ p.tSample := by simpa [waveBit] using hb
    have hlow : p.tSample + 1 ≤ w.high + nextLow tail r := by
      split at h
      case isTrue hr => rwa [hr]
      case isFalse => omega
    obtain ⟨i, hi⟩ : ∃ i, w.high = 1 + i := Nat.exists_eq_add_of_le hhigh
    obtain ⟨c, hc⟩ : ∃ c, p.tSample = w.high + c := Nat.exists_eq_add_of_le hshort
    obtain ⟨k, hk⟩ : ∃ k, nextLow tail r = c + 1 + k := Nat.exists_eq_add_of_le (by omega)
    refine ⟨List.replicate i true ++ List.replicate c false, 0, k, ?_, fun hr => ?_, ?_⟩
    · rw [List.length_append, List.length_replicate, List.length_replicate]
      omega
    · rw [if_neg hr] at h
      exact ⟨by omega, by omega, by omega⟩
    · rw [Bool.eq_false_of_not_eq_true hb, hi, hk]
      simp only [List.replicate_add, List.replicate_one, List.replicate_zero, List.append_assoc, List.cons_append,
        List.nil_append]

/-! ## The read -/

section
variable {p : Config.Params} {tail m k : Nat} {bits : List Bool} {ws : List BitWave}

/-- From the end of the ack, or of a bit, the bits to come are delivered. -/
theorem delivers_waves (hT : 1 ≤ p.tSample) (hok : wavesOk p tail ws = true) (h40 : bits.length + ws.length = 40)
    (hgap : ws ≠ [] → GapOk p m k) :
    Delivers p (bits ++ ws.map (waveBit p.tSample)) (if bits.length = 40 then Code.done else Code.bitWaitLow) 0 bits
      (List.replicate m true ++ (List.replicate k false ++ levelsAfterLow tail ws)) := by
  induction ws generalizing bits m k with
  | nil =>
    rw [if_pos (by simpa using h40), List.map_nil, List.append_nil]
    exact delivers_done
  | cons w r ih =>
    rw [wavesOk, Bool.and_eq_true, decide_eq_true_eq] at hok
    obtain ⟨hw, hr⟩ := hok
    obtain ⟨hm, hk, hkmax⟩ := hgap (List.cons_ne_nil w r)
    obtain ⟨k, rfl⟩ : ∃ i, k = i + 1 := ⟨k - 1, by omega⟩
    obtain ⟨early, m', k', hearly, hgap', hlevels⟩ := hw.levels hT
    rw [List.length_cons] at h40
    have hnext := ih (bits := bits ++ [waveBit p.tSample w]) hr
      (by rw [List.length_append, List.length_singleton]; omega) hgap'
    rw [if_neg (by omega), hlevels, List.map_cons, List.append_cons]
    refine delivers_poll (n := m) (a := false) (by decide) rfl (by rw [Nat.zero_add]; exact hm) ?_
    refine delivers_poll (n := k) (a := true) (by decide) rfl (by rw [Nat.zero_add]; exact hkmax) ?_
    exact delivers_delay (by omega) hnext

/-- From the first cycle of WAIT_ACK, the ack leads to the bits. -/
theorem delivers_ack {ack ackLow ackHigh : Nat} (hT : 1 ≤ p.tSample) (hack : ack < p.ackPollMax) (hlow : 1 ≤ ackLow)
    (hlowMax : ackLow ≤ p.phasePollMax) (hhigh : 1 ≤ ackHigh) (hhighMax : ackHigh ≤ p.phasePollMax)
    (hgap : 1 ≤ nextLow tail ws ∧ nextLow tail ws ≤ p.phasePollMax) (hok : wavesOk p tail ws = true)
    (h40 : ws.length = 40) :
    Delivers p (ws.map (waveBit p.tSample)) Code.waitAck 0 [] (List.replicate ack true ++
      (List.replicate ackLow false ++ (List.replicate ackHigh true ++
        (waveLevels ws ++ List.replicate tail false)))) := by
  obtain ⟨l, rfl⟩ : ∃ i, ackLow = i + 1 := ⟨ackLow - 1, by omega⟩
  obtain ⟨h, rfl⟩ : ∃ i, ackHigh = i + 1 := ⟨ackHigh - 1, by omega⟩
  rw [waveLevels_eq]
  refine delivers_poll (n := ack) (a := false) (by decide) rfl (by rw [Nat.zero_add]; exact hack) ?_
  refine delivers_poll (n := l) (a := true) (by decide) rfl (by rw [Nat.zero_add]; exact hlowMax) ?_
  exact delivers_waves (bits := []) hT hok (by rw [h40]; rfl) fun _ => ⟨hhighMax, hgap⟩

end

section
variable {s w t : State} {j : Nat}

/-- R133: an accept leads to the first cycle of WAIT_ACK. -/
theorem steps_waitAck {n : Nat} (hw : Waiting s) (hb : s.input.start = true)
    (hrun : RunsFor (s.cfg.tStart + s.cfg.tRelease + 1 + n) s) :
    ∃ w, steps (s.cfg.tStart + s.cfg.tRelease + 1) s = .next w ∧ RunsFor n w ∧ w.cfg = s.cfg ∧
      w.state = Code.waitAck ∧ w.cnt = 0 := by
  obtain ⟨w, hsteps, hrest, hcfg, hplace⟩ := steps_accept hw hb hrun le_rfl
  rw [InStartSequence, hcfg] at hplace
  obtain ⟨-, -, hlt⟩ | ⟨-, -, hlt⟩ | ⟨hstate, hcnt, -⟩ := hplace
  · omega
  · omega
  · exact ⟨w, hsteps, hrest, hcfg, hstate, hcnt⟩

/-- A read is busy from the cycle after its accept on, when it is from WAIT_ACK on. -/
theorem ReadEnds.busy_from_accept (hends : ReadEnds j w t) (hw : Waiting s) (hb : s.input.start = true)
    (hrun : RunsFor (s.cfg.tStart + s.cfg.tRelease + 1) s)
    (hsteps : steps (s.cfg.tStart + s.cfg.tRelease + 1) s = .next w) {k : Nat} (hk : 1 ≤ k)
    (hkj : k < s.cfg.tStart + s.cfg.tRelease + 1 + j) : ∃ u, steps k s = .next u ∧ Busy u := by
  obtain ⟨-, -, hbusy⟩ := hends
  by_cases hstart : k ≤ s.cfg.tStart + s.cfg.tRelease + 1
  · obtain ⟨i, rfl⟩ : ∃ i, k = i + 1 := ⟨k - 1, by omega⟩
    obtain ⟨u, hu, -, -, hplace⟩ := steps_accept hw hb (j := i) (m := 0) (hrun.mono (by omega)) (by omega)
    exact ⟨u, hu, hplace.busy⟩
  · obtain ⟨i, rfl⟩ := Nat.exists_eq_add_of_le (Nat.le_of_not_le hstart)
    obtain ⟨u, hu, hub⟩ := hbusy i (by omega)
    exact ⟨u, by rw [steps_add, hsteps, andThen_next, hu], hub⟩

/-- Before the first bit nothing is received. -/
theorem Invariant.received_nil (h : Invariant s) (hs : s.state.toNat ≤ 4) : Received [] s := by
  obtain ⟨bits, hbits⟩ := h.frameReceived
  have hlength : bits.length = 0 := by
    rw [hbits.1, bitsSampled_of_not_done (by bv_omega), h.bitIdxBeforeBits hs]
    rfl
  rwa [← List.length_eq_zero_iff.mp hlength]

end

/-- Settles O49: the start sequence takes the read to WAIT_ACK, where it hears the sensor's levels, and from there the
rules deliver the bits. -/
theorem sensorFrameIsReceived : Obligations.SensorFrameIsReceived := by
  unfold Obligations.SensorFrameIsReceived
  intro s ack ackLow ackHigh waves tail hi hw hb hreset h40 hack hlow hlowMax hhigh hhighMax hgap hgapMax hok hheard
    hlisted
  have hrun : RunsFor _ s := ⟨hi, hlisted, hreset⟩
  obtain ⟨w, hsteps, hrest, hcfg, hstate, hcnt⟩ := steps_waitAck hw hb hrun
  obtain ⟨-, -, -, hT, -⟩ := hi.configOk
  have hstart : RunsFor (s.cfg.tStart + s.cfg.tRelease + 1) s := hrun.mono (by omega)
  have hseen := (seenLine_steps hstart.listed (fun i h => hreset i (List.mem_of_mem_take h)) hsteps).1
  obtain ⟨j, t, hends, hdone, hreceived⟩ :=
    delivers_ack hT hack hlow hlowMax hhigh hhighMax ⟨hgap, hgapMax⟩ hok h40 w
      ⟨hrest.mono (by simp; omega), hcfg, hstate, hcnt, hrest.invariant.received_nil (by rw [hstate]; decide),
        hseen ▸ hheard⟩
  refine ⟨s.cfg.tStart + s.cfg.tRelease + 1 + j, t, ?_, hdone, by omega,
    fun k hk hkj => hends.busy_from_accept hw hb hstart hsteps hk hkj, hreceived⟩
  rw [steps_add, hsteps, andThen_next, hends.1]

end Sys2Proof.Machine
end

section
/-! PROOFS. The reading interpreter (43_reading_interpreter.md): the bounds of the temperature and of the divided
humidity, the checksum, and what the reading depends on. -/

namespace Sys2Proof.Machine

/-! ## The temperature -/

theorem magnitude_le (f : Frame) : (magnitude f).toNat ≤ 32767 := by
  rw [magnitude_toNat]
  exact Nat.le_of_lt_succ (Nat.mod_lt _ (by decide))

/-- R205, R210: the tenths leave out -32768, the one value of 16 bits that is no magnitude with a sign. -/
theorem temperatureTenths_bounds (f : Frame) : -32767 ≤ temperatureTenths f ∧ temperatureTenths f ≤ 32767 := by
  have hm := magnitude_le f
  unfold temperatureTenths
  split
  · omega
  · omega

/-- The port loses nothing of the tenths: they fit in 16 bits of two's complement (R205). -/
theorem temperature_toInt (f : Frame) : (temperature f).toInt = temperatureTenths f := by
  obtain ⟨hmin, hmax⟩ := temperatureTenths_bounds f
  exact BitVec.toInt_ofInt_eq_self (by decide) (by omega) (by omega)

/-- Settles O41: the port holds the tenths, which are the signed magnitude and stay within their bounds; 0x8000 would be
below them. -/
theorem temperatureIsSignAndMagnitude : Obligations.TemperatureIsSignAndMagnitude := by
  unfold Obligations.TemperatureIsSignAndMagnitude
  intro f
  obtain ⟨hmin, hmax⟩ := temperatureTenths_bounds f
  rw [temperature_toInt]
  refine ⟨temperatureTenths_eq f, hmin, hmax, fun h => ?_, fun h2 h3 => ?_⟩
  · have hlow : temperatureTenths f = -32768 := by rw [← temperature_toInt, h]; rfl
    omega
  · rw [temperature, temperatureTenths_eq, h2, h3]
    rfl

/-! ## The humidity -/

theorem humidityDiv10_toNat (f : Frame) : (humidityDiv10 f).toNat = (humidityRaw f).toNat / 10 := by
  have hraw := (rawHumidity f).isLt
  rw [humidityDiv10, humidityRaw, BitVec.toNat_ofNat]
  exact Nat.mod_eq_of_lt (by omega)

/-- Settles O24: a variant's row drives the port with its humidity, which is the stated arithmetic on the first two
bytes. -/
theorem humidityVariantsDriveThePort : Obligations.HumidityVariantsDriveThePort := by
  unfold Obligations.HumidityVariantsDriveThePort
  intro s h
  have hraw := exec_variant h false
  have hdiv := exec_variant h true
  rw [humidity_eq] at hraw hdiv
  exact ⟨hraw, hdiv⟩

/-- Settles O40: the divided humidity is the quotient by ten of a 16-bit value. -/
theorem dividedHumidityIsFloor : Obligations.DividedHumidityIsFloor := by
  unfold Obligations.DividedHumidityIsFloor
  intro f
  have hraw := (humidityRaw f).isLt
  rw [humidityDiv10_toNat]
  omega

/-! ## The checksum -/

theorem checksum_toNat (f : Frame) :
    (checksum f).toNat = (f.b0.toNat + f.b1.toNat + f.b2.toNat + f.b3.toNat) % 256 :=
  BitVec.toNat_ofNat _ 8

/-- Settles O42: the checksum's eight bits are the sum mod 256, which the flag compares with byte 4. -/
theorem checksumIsSumModulo256 : Obligations.ChecksumIsSumModulo256 := by
  unfold Obligations.ChecksumIsSumModulo256
  intro f
  rw [checksumValid_eq, decide_eq_true_iff]
  exact ⟨checksum_toNat f, Iff.rfl⟩

/-! ## What the reading depends on -/

/-- Settles O39: both cycles are settled, so that the humidity port too is a function of the frame and the variant. -/
theorem readingDependsOnFrameAlone : Obligations.ReadingDependsOnFrameAlone := by
  unfold Obligations.ReadingDependsOnFrameAlone
  intro s s' t t' h h' hframe
  obtain ⟨u, rfl⟩ := step_settled h
  obtain ⟨u', rfl⟩ := step_settled h'
  rw [settledState_frame, settledState_frame] at hframe
  rw [settledState_input, settledState_input, outputs_settledState, outputs_settledState, hframe]
  exact ⟨rfl, rfl, rfl, fun hvariant => congrArg (humidity · u'.frame) hvariant⟩

end Sys2Proof.Machine
end

section
/-! PROOFS. Failures and priority (60_exceptions.md R231 to R233, R237 to R239): what the last poll of a polling state
does, how DONE and TIMED_OUT are left, and what goes before what. -/

namespace Sys2Proof.Machine

/-! ## The polling states -/

/-- The cause a polling state times out with (R231 to R233). -/
def timeOutCause (code : BitVec 4) : Cause :=
  if code = Code.waitAck then .ackTimeout else if code = Code.ackLow then .ackEndTimeout else .bitTimeout

theorem polling_cases {code : BitVec 4} (h : Polling code) :
    code = Code.waitAck ∨ code = Code.ackLow ∨ code = Code.bitWaitLow ∨ code = Code.bitWaitHigh := by
  obtain ⟨h3, h6⟩ := h
  bv_omega

/-- R126, R161 to R163, with the cause: the arm of a polling state is one poll. -/
theorem legalArm_eq_poll (b : Bool) {s : State} (h : Polling s.state) : legalArm b s =
    .next (s.poll (awaitedLevel s.state) (cntBound s.cfg s.state) (s.state + 1) (timeOutCause s.state)) := by
  unfold legalArm
  rcases polling_cases h with e | e | e | e <;> rw [e] <;> rfl

/-- A polling state's arm, when it answers a next state, has polled. -/
theorem stateArm_polling {b : Bool} {s u : State} (h : stateArm b s = .next u) (hp : Polling s.state) :
    u = s.poll (awaitedLevel s.state) (cntBound s.cfg s.state) (s.state + 1) (timeOutCause s.state) := by
  rw [stateArm_used b (by omega), legalArm_eq_poll b hp] at h
  obtain ⟨-, hu⟩ := inLegal_eq_next.mp h
  cases hu
  rfl

/-! ## The way into TIMED_OUT -/

theorem ArmMove.enters_timedOut {b : Bool} {s u : State} (h : ArmMove b s u) (hu : u.state = Code.timedOut)
    (hs : s.state ≠ Code.timedOut) : Polling s.state := by
  cases h with
  | accept _ _ => exact absurd hu (show Code.startPulse ≠ Code.timedOut by decide)
  | stay _ _ => exact absurd hu hs
  | count _ _ => exact absurd hu hs
  | advance _ h6 => simp only [State.goto_state] at hu; bv_omega
  | timeOut _ hp _ => exact hp
  | sampleMore _ _ _ _ _ => exact absurd hu (show Code.bitWaitLow ≠ Code.timedOut by decide)
  | sampleLast _ _ _ _ _ => exact absurd hu (show Code.done ≠ Code.timedOut by decide)

/-- R231 to R233, R238: an arm enters TIMED_OUT only in the last poll of a polling state, by raising that state's
cause. -/
theorem stateArm_enters_timedOut {b : Bool} {s u : State} (h : stateArm b s = .next u) (hu : u.state = Code.timedOut)
    (hs : s.state ≠ Code.timedOut) : Polling s.state ∧ s.lineS = !awaitedLevel s.state ∧
      s.cnt = cntBound s.cfg s.state - 1 ∧ u = s.raise (timeOutCause s.state) := by
  by_cases h9 : s.state.toNat ≤ 9
  · have hp : Polling s.state := (armMove_of_stateArm h9 h).enters_timedOut hu hs
    have hpoll := stateArm_polling h hp
    rcases poll_cases s (awaitedLevel s.state) (cntBound s.cfg s.state) (s.state + 1) (timeOutCause s.state) with
      ⟨-, e⟩ | ⟨hmissed, hlast, e⟩ | ⟨-, -, e⟩ <;> rw [e] at hpoll
    · rw [hpoll, State.goto_state] at hu
      bv_omega
    · exact ⟨hp, Bool.eq_not.mpr hmissed, hlast, hpoll⟩
    · rw [hpoll] at hu
      exact absurd hu hs
  · rw [stateArm_unused b (by omega)] at h
    cases h
    exact absurd hu (show Code.idle ≠ Code.timedOut by decide)

/-- Settles O32: the only arm that enters TIMED_OUT is a last poll that raises, and a raise and the shift leave the
frame and the bit index alone; the polling state gives the level, the bound and the cause. -/
theorem timeoutsArePrecise : Obligations.TimeoutsArePrecise := by
  unfold Obligations.TimeoutsArePrecise
  intro s t hstep htimedOut hs
  obtain ⟨-, ⟨-, rfl⟩ | ⟨hr, u, hu, rfl⟩⟩ := step_cases hstep
  · exact absurd htimedOut (show Code.idle ≠ Code.timedOut by decide)
  · obtain ⟨hp, hline, hcnt, hraise⟩ := stateArm_enters_timedOut hu htimedOut hs
    generalize hcause : timeOutCause s.state = c at hraise
    subst hraise
    refine ⟨hr, rfl, rfl, rfl, rfl, ?_⟩
    rcases polling_cases hp with e | e | e | e <;> rw [e] at hline hcnt hcause <;> subst hcause
    · exact .inl ⟨e, hline, hcnt, rfl⟩
    · exact .inr (.inl ⟨e, hline, hcnt, rfl⟩)
    · exact .inr (.inr (.inl ⟨e, hline, hcnt, rfl⟩))
    · exact .inr (.inr (.inr ⟨e, hline, hcnt, rfl⟩))

/-! ## The ways out of DONE and TIMED_OUT -/

/-- Settles O33: without a reset both states await a request, which is accepted or absent. -/
theorem terminalLeftOnlyByAcceptOrReset : Obligations.TerminalLeftOnlyByAcceptOrReset := by
  unfold Obligations.TerminalLeftOnlyByAcceptOrReset
  intro s t hterminal hstep
  obtain ⟨-, ⟨hr, rfl⟩ | ⟨hr, u, hu, rfl⟩⟩ := step_cases hstep
  · exact .inl ⟨hr, rfl, rfl, rfl, rfl⟩
  · have hw : Waiting s := .inr hterminal
    rw [stateArm_waiting _ hw (stateArm_legal hu (waiting_stateUsed hw))] at hu
    cases hu
    rcases await_cases s s.input.start with ⟨hb, e⟩ | ⟨hb, e⟩ <;> rw [e]
    · exact .inr (.inl ⟨hr, hb, rfl, rfl, rfl, rfl⟩)
    · exact .inr (.inr ⟨hr, hb, rfl, rfl, rfl, rfl⟩)

/-! ## Priority -/

/-- R237: a poll that sees its level goes on to the next state, whatever the count is. -/
theorem step_detects {s t : State} (hr : s.input.rstN = true) (hstep : step s = .next t) {code : BitVec 4}
    (hs : s.state = code) (hp : Polling code) (hline : s.lineS = awaitedLevel code) :
    t.state = code + 1 ∧ t.errCause = s.errCause := by
  subst hs
  obtain ⟨-, ⟨hreset, -⟩ | ⟨-, u, hu, rfl⟩⟩ := step_cases hstep
  · rw [hr] at hreset
    cases hreset
  · have hu : u = s.goto (s.state + 1) := (stateArm_polling hu hp).trans (if_pos hline)
    rw [hu]
    exact ⟨rfl, rfl⟩

/-- Settles O35: a reset leads to IDLE from anywhere, and each polling state's code is followed by that of the state it
moves on to. -/
theorem resetThenDetectionHavePriority : Obligations.ResetThenDetectionHavePriority := by
  unfold Obligations.ResetThenDetectionHavePriority
  constructor
  · intro s t hr hstep
    obtain ⟨-, ⟨-, rfl⟩ | ⟨hrun, -⟩⟩ := step_cases hstep
    · exact ⟨rfl, rfl⟩
    · rw [hr] at hrun
      cases hrun
  · intro s t hr hstep
    exact ⟨fun e hl => step_detects hr hstep e (by decide) hl, fun e hl => step_detects hr hstep e (by decide) hl,
      fun e hl => step_detects hr hstep e (by decide) hl, fun e hl => step_detects hr hstep e (by decide) hl⟩

end Sys2Proof.Machine
end

section
/-! PROOFS. Reset (70_reset_and_hazards.md R260, R261): the one state it leads to, and the outputs of that state. -/

namespace Sys2Proof.Machine

/-- The zero frame reads as no humidity under either variant (R261). -/
theorem humidity_zero (b : Bool) : humidity b Frame.zero = 0 := by
  cases b <;> rfl

/-- R260: the reset registers, settled in the next cycle, are ResetState, whatever input comes then. -/
theorem settledState_resetRegs (s : State) : settledState s.resetRegs.nextCycle =
    { State.resetWith s.cfg s.stimulus.tail with cycle := s.cycle + 1 } := by
  simp only [settledState, State.nextCycle_state, State.nextCycle_frame, State.resetRegs_state, State.resetRegs_frame,
    humidity_zero]
  rfl

/-- Settles O8: RESET is its write of the registers, and the step settles the ports of the next cycle. -/
theorem resetGivesResetState : Obligations.ResetGivesResetState := by
  unfold Obligations.ResetGivesResetState
  intro s hc
  refine ⟨fun b => guarded_of_ok hc _, fun hr => ?_⟩
  rw [step_reset hc hr, settledState_resetRegs]

/-- Settles O9: the outputs of a settled state follow its registers, and those are zero. -/
theorem resetOutputs : Obligations.ResetOutputs := by
  unfold Obligations.ResetOutputs
  intro s hc hr
  refine ⟨_, step_reset hc hr, ?_⟩
  simp only [outputs_settledState, State.nextCycle_state, State.nextCycle_frame, State.resetRegs_state,
    State.resetRegs_frame, humidity_zero]
  rfl

end Sys2Proof.Machine
end

section
/-! PROOFS. The start pulse and the ack (70_reset_and_hazards.md R266): RELEASE_LINE lasts long enough to fill the
synchroniser chain with what the line reads back. -/

namespace Sys2Proof.Machine

theorem input_mem_take {n : Nat} {s : State} (h : 0 < s.stimulus.length) : s.input ∈ s.stimulus.take (n + 1) := by
  obtain ⟨i, q, hq⟩ := List.exists_cons_of_length_pos h
  rw [State.input, hq]
  exact List.mem_cons_self

/-- The start sequence runs on while the cycles it takes list no reset, whatever is listed after them. -/
theorem InStartSequence.steps_of_noReset {j n : Nat} {s : State} (h : InStartSequence j s) (hi : Invariant s)
    (hlisted : n ≤ s.stimulus.length) (hreset : ∀ i ∈ s.stimulus.take n, i.rstN = true)
    (hj : j + n ≤ s.cfg.tStart + s.cfg.tRelease) :
    ∃ t, steps n s = .next t ∧ t.cfg = s.cfg ∧ InStartSequence (j + n) t := by
  induction n generalizing s j with
  | zero => exact ⟨s, rfl, rfl, h⟩
  | succ n ih =>
    obtain ⟨u, hu, hcfg, hnext⟩ := h.legalArm_next s.input.start hi.configOk (by omega)
    have hstep := step_run hi.configOk (hreset _ (input_mem_take (by omega))) ((hi.stateArm_eq _).trans hu)
    have hrest := step_stimulus hstep
    have hreset' : ∀ i ∈ s.stimulus.tail.take n, i.rstN = true := fun i hmem =>
      hreset i (List.mem_of_mem_tail (by rwa [List.tail_take_eq_take_tail]))
    obtain ⟨t, ht, hcfg', hlast⟩ := ih (s := settledState u.shiftSync.nextCycle) hnext
      (stepKeepsInvariant _ _ hi hstep) (by rw [hrest, List.length_tail]; omega) (hrest ▸ hreset')
      (by simp only [settledState_cfg, State.nextCycle_cfg, State.shiftSync_cfg, hcfg]; omega)
    exact ⟨t, steps_succ_eq_next.mpr ⟨_, hstep, ht⟩, hcfg'.trans hcfg, by rwa [Nat.add_right_comm] at hlast⟩

/-- R160: when the line was high for as many cycles as the chain is deep, every stage is 1. -/
theorem sync_steps_high {n : Nat} {s t : State} (hlisted : n ≤ s.stimulus.length)
    (hreset : ∀ i ∈ s.stimulus.take n, i.rstN = true) (hhigh : ∀ i ∈ s.stimulus.take n, i.lineIn = true)
    (hrun : steps n s = .next t) (hdeep : s.sync.length ≤ n) : t.sync = List.replicate s.sync.length true := by
  have hones : ((s.stimulus.take n).map Input.lineIn).reverse = List.replicate n true := by
    rw [List.map_congr_left hhigh]
    simp [hlisted]
  rw [sync_steps hlisted hreset hrun, hones, List.take_append_of_le_length (by simpa using hdeep), List.take_replicate,
    Nat.min_eq_left hdeep]

/-- Settles O47: T_RELEASE steps from the first cycle of RELEASE_LINE end the start sequence, and the chain is no deeper
than that (R6). -/
theorem startPulseNeverTakenForAck : Obligations.StartPulseNeverTakenForAck := by
  unfold Obligations.StartPulseNeverTakenForAck
  intro s hi hs hcnt hlisted hinputs
  have hreset : ∀ i ∈ s.stimulus.take s.cfg.tRelease, i.rstN = true := fun i h => (hinputs i h).1
  obtain ⟨-, -, hRelease, -, -, -, hdeep, -⟩ := hi.configOk
  have hfirst : InStartSequence s.cfg.tStart s := .inr (.inl ⟨hs, by rw [hcnt, Nat.add_zero], by omega⟩)
  obtain ⟨t, ht, hcfg, hplace⟩ := hfirst.steps_of_noReset hi hlisted hreset le_rfl
  have hsync := sync_steps_high hlisted hreset (fun i h => (hinputs i h).2) ht (by rw [hi.syncLength]; exact hdeep)
  rw [InStartSequence, hcfg] at hplace
  obtain ⟨-, -, hlt⟩ | ⟨-, -, hlt⟩ | ⟨hstate, hcnt', -⟩ := hplace
  · omega
  · omega
  · exact ⟨t, ht, hstate, hcnt', hi.syncLength ▸ hsync⟩

end Sys2Proof.Machine
end

section
/-! PROOFS. What the checksum flag shows (70_reset_and_hazards.md R270, R273): it is 1 for the empty frame, and a single
wrong byte, hence a single wrong bit, clears it. -/

namespace Sys2Proof.Machine

/-- Only DONE shows status 10 (R71, R77). -/
theorem done_of_statusOf {c : BitVec 4} : statusOf c = 0b10 → c = Code.done := by
  revert c; decide

/-- Settles O44: the frame that packs no bits is the zero frame, and DONE has 40 bits. -/
theorem emptyFrameChecksumIsValid : Obligations.EmptyFrameChecksumIsValid := by
  unfold Obligations.EmptyFrameChecksumIsValid
  intro s hi hn
  constructor
  · obtain ⟨bits, hlength, hbytes⟩ := hi.frameReceived
    obtain rfl : bits = [] := List.length_eq_zero_iff.mp (hlength.trans hn)
    have hzero : s.frame = Frame.zero := frame_eq_of_memRead fun k hk => by
      rw [hbytes k hk]
      interval_cases k <;> rfl
    rw [hzero]
    rfl
  · intro hdone
    rw [bitsSampled, done_of_statusOf hdone] at hn
    cases hn

theorem frameByte_lt (f : Frame) (k : Nat) : frameByte f k < 256 := BitVec.isLt _

/-- Two frames agree in a byte exactly if `frame_o` agrees in its eight bits (R53). -/
theorem frameByte_eq_iff_frameO {f g : Frame} {k : Nat} (hk : k < 5) : frameByte g k = frameByte f k ↔
    ∀ q < 8, (frameO g).getLsbD (q + 8 * (4 - k)) = (frameO f).getLsbD (q + 8 * (4 - k)) := by
  obtain ⟨b, hb⟩ := Option.isSome_iff_exists.mp ((memRead_isSome f k).mpr hk)
  obtain ⟨c, hc⟩ := Option.isSome_iff_exists.mp ((memRead_isSome g k).mpr hk)
  rw [frameByte, frameByte, hb, hc, Option.getD_some, Option.getD_some, BitVec.toNat_inj]
  constructor
  · rintro rfl q hq
    rw [frameO_getLsbD hk hq hb, frameO_getLsbD hk hq hc]
  · refine fun h => BitVec.eq_of_getLsbD_eq fun q hq => ?_
    rw [← frameO_getLsbD hk hq hb, ← frameO_getLsbD hk hq hc, h q hq]

theorem checksumValid_eq_frameByte (f : Frame) : checksumValid f =
    decide ((frameByte f 0 + frameByte f 1 + frameByte f 2 + frameByte f 3) % 256 = frameByte f 4) :=
  checksumValid_eq f

/-- A single wrong byte is detected: a byte of the sum or the checksum's own changes by less than 256, so that one side
of R207's comparison changes mod 256 and the other does not. -/
theorem checksumValid_false_of_one_byte {f g : Frame} {k : Nat} (hk : k < 5) (hne : frameByte g k ≠ frameByte f k)
    (heq : ∀ j < 5, j ≠ k → frameByte g j = frameByte f j) (hf : checksumValid f = true) :
    checksumValid g = false := by
  have hltf := frameByte_lt f k
  have hltg := frameByte_lt g k
  have h0 := heq 0 (by decide)
  have h1 := heq 1 (by decide)
  have h2 := heq 2 (by decide)
  have h3 := heq 3 (by decide)
  have h4 := heq 4 (by decide)
  rw [checksumValid_eq_frameByte, decide_eq_true_iff] at hf
  rw [checksumValid_eq_frameByte, decide_eq_false_iff_not]
  interval_cases k <;> omega

/-- Settles O43: the flipped bit of `frame_o` lies in one byte, which changes while the other four stay. -/
theorem singleWrongBitIsDetected : Obligations.SingleWrongBitIsDetected := by
  unfold Obligations.SingleWrongBitIsDetected
  intro f g i hi hflip hf
  have hbit : ∀ p, (frameO g).getLsbD p = (frameO f).getLsbD p ↔ p ≠ i := by
    intro p
    rw [hflip, BitVec.getLsbD_xor, BitVec.getLsbD_twoPow, decide_eq_true hi]
    by_cases h : i = p
    · simp [h]
    · simp [h, Ne.symm h]
  refine checksumValid_false_of_one_byte (k := 4 - i / 8) (by omega) ?_ ?_ hf
  · rw [Ne, frameByte_eq_iff_frameO (by omega)]
    intro h
    exact (hbit _).mp (h (i % 8) (by omega)) (by omega)
  · intro j hj hne
    rw [frameByte_eq_iff_frameO hj]
    intro q hq
    exact (hbit _).mpr (by omega)

end Sys2Proof.Machine
end
